-- ==== Sys2Proof/Word.lean ====
section
/-!
DEFINITION. The word types of the Felsjar 7240 and their plainest arithmetic.
A bit vector stands only where the manual treats a value as bits or as a wrapping count.
-/

namespace Sys2Proof

/-- One byte of the exchange memory. -/
abbrev Byte := BitVec 8

/-- A 32-bit word of the host bus and the exchange memory (R158, R193). -/
abbrev Word := BitVec 32

/-- A value of the 64-bit cycle counter (R20). -/
abbrev Cycle := BitVec 64

/-- A value of the 64-bit site time in milliseconds (R23). -/
abbrev SiteTime := BitVec 64

/-- A signed 16-bit raw strain sample (R9) or scanner temperature in 0.1 degree (R16). -/
abbrev Sample := BitVec 16

/-- A word address of the host bus: the pins A2 to A18 (section 11.7); the byte address is four times it. -/
abbrev BusAddr := BitVec 17

end Sys2Proof
end

