-- ==== Sys2Proof/Syntax.lean ====
section
/-!
DEFINITION. The commands of the Felsjar 7240: one constructor for each row of spec/opcode_table.json.
Every command carries first the cycle count at which it is taken (R20: every event is timed by the
counter value at which it occurred); see notes/assumptions/1.
-/

namespace Sys2Proof

/-- The five wheel detectors, in the index order of R171. -/
inductive Det where
  | apW | apE | g1 | g2 | g3
  deriving DecidableEq, Repr

/-- The two inductive elements of a detector: E1 is the western, E2 the eastern (section 1.2). -/
inductive Element where
  | e1 | e2
  deriving DecidableEq, Repr

/-- The commands, operations and events of the part. The first operand of each is its instant. -/
inductive Instr where
  /-- ELEMENT_EDGE (R3): an element's level, which has held since the cycle `since`. -/
  | elementEdge (now : Cycle) (det : Det) (element : Element) (covered : Bool) (since : Cycle)
  /-- STUCK_TIMER_EXPIRY (R7). -/
  | stuckTimerExpiry (now : Cycle) (det : Det)
  /-- POINT_COMPLETE (R9): the raw samples of the next output point of a physical strain input,
  X1 to X8 being 0 to 7 and Y1 to Y8 being 8 to 15. -/
  | pointComplete (now : Cycle) (input : Fin 16) (samples : List Sample)
  /-- BASELINE_UPDATE (R11). -/
  | baselineUpdate (now : Cycle)
  /-- FLAT_RUN_EXPIRY (R13), of a physical strain input. -/
  | flatRunExpiry (now : Cycle) (input : Fin 16)
  /-- SCANNER_FRAME (R16): a whole frame on a physical link, L1 to L4 being 0 to 3. -/
  | scannerFrame (now : Cycle) (link : Fin 4) (sample : Sample) (check : Byte)
  /-- SLOT_COMPLETE (R16): the open 10,000-cycle slot completes on every scanner. -/
  | slotComplete (now : Cycle)
  /-- AMBIENT_UPDATE (R17). -/
  | ambientUpdate (now : Cycle)
  /-- LINK_TIMER_EXPIRY (R18), of a physical link. -/
  | linkTimerExpiry (now : Cycle) (link : Fin 4)
  /-- SECOND_PULSE (R21): a rising edge on the second-pulse input. -/
  | secondPulse (now : Cycle)
  /-- TRIM_LOST (R22). -/
  | trimLost (now : Cycle)
  /-- MILLISECOND_TICK (R23). -/
  | millisecondTick (now : Cycle)
  /-- APPROACH_TIMEOUT (R25). -/
  | approachTimeout (now : Cycle)
  /-- QUIET_TIMEOUT (R41). -/
  | quietTimeout (now : Cycle)
  /-- OPEN_LIMIT_EXPIRY (R42). -/
  | openLimitExpiry (now : Cycle)
  /-- SETTLEMENT_TAKE (R49). -/
  | settlementTake (now : Cycle)
  /-- EXTRACTION (R50). -/
  | extraction (now : Cycle)
  /-- SETTLEMENT_COMPLETE (R51). -/
  | settlementComplete (now : Cycle)
  /-- CLOSE_COMPUTATIONS (R44), of one train buffer. -/
  | closeComputations (now : Cycle) (buffer : Fin 4)
  /-- HOLD_EXPIRY (R111), of the record at one board position. -/
  | holdExpiry (now : Cycle) (position : Fin 32)
  /-- ACK_EDGE (R122): a STOP_ACK level, which has held since the cycle `since`. -/
  | ackEdge (now : Cycle) (level : Bool) (since : Cycle)
  /-- ACK_TIMEOUT (R125). -/
  | ackTimeout (now : Cycle)
  /-- PULSE_TIMER_EXPIRY (R128). -/
  | pulseTimerExpiry (now : Cycle)
  /-- LISTEN_TIMER_EXPIRY (R128). -/
  | listenTimerExpiry (now : Cycle)
  /-- REPORT_WRITE_START (R147). -/
  | reportWriteStart (now : Cycle)
  /-- REPORT_WRITE_COMPLETE (R148). -/
  | reportWriteComplete (now : Cycle)
  /-- RELEASE_WRITE (R150): a host write to the RELEASE word. -/
  | releaseWrite (now : Cycle) (value : Word)
  /-- POST_WRITE (R163): a host write to a slot's POST word. -/
  | postWrite (now : Cycle) (slot : Fin 16) (value : Word)
  /-- ORDER_TAKE (R165). -/
  | orderTake (now : Cycle)
  /-- ARM (R185): the completion of a running ARM. -/
  | arm (now : Cycle)
  /-- WAITING_ARM_LATCH (R187). -/
  | waitingArmLatch (now : Cycle)
  /-- DISARM (R188): the completion of a running DISARM. -/
  | disarm (now : Cycle)
  /-- WAITING_DISARM_COMPLETE (R189). -/
  | waitingDisarmComplete (now : Cycle)
  /-- SET_TIME (R172): the completion of a running SET_TIME. -/
  | setTime (now : Cycle)
  /-- ATTACH_CONSIST (R87): the completion of a running ATTACH_CONSIST. -/
  | attachConsist (now : Cycle)
  /-- DROP_CONSIST (R90): the completion of a running DROP_CONSIST. -/
  | dropConsist (now : Cycle)
  /-- DECIDE_ALARM (R112): the completion of a running DECIDE_ALARM. -/
  | decideAlarm (now : Cycle)
  /-- CLEAR_STOP (R115): the completion of a running CLEAR_STOP. -/
  | clearStop (now : Cycle)
  /-- HOLD_LIVE (R179): the completion of a running HOLD_LIVE. -/
  | holdLive (now : Cycle)
  /-- RELEASE_LIVE (R179): the completion of a running RELEASE_LIVE. -/
  | releaseLive (now : Cycle)
  /-- PEEK_TRAIN (R170): the completion of a running PEEK_TRAIN. -/
  | peekTrain (now : Cycle)
  /-- SET_CHANNEL_SERVICE (R171): the completion of a running SET_CHANNEL_SERVICE. -/
  | setChannelService (now : Cycle)
  /-- UNKNOWN_KIND (R167): the completion of a running order of an unlisted kind. -/
  | unknownKind (now : Cycle)
  /-- ATTN_READ (R175): a host read of ATTN. -/
  | attnRead (now : Cycle)
  /-- ATTN_MASK_WRITE (R176): a host write of ATTN_MASK. -/
  | attnMaskWrite (now : Cycle) (value : Word)
  /-- SITE_RESET (R190): a host write of code 1 to SITE_CTRL. -/
  | siteReset (now : Cycle)
  /-- FULL_RESET (R191): a host write of code 2 to SITE_CTRL. -/
  | fullReset (now : Cycle)
  /-- POWER_RESET (R200): the RESET_N level and the two supplies, in millivolts, as they now stand. -/
  | powerReset (now : Cycle) (resetN : Bool) (vddCore vddIo : Nat)
  /-- DROPPED_WRITE (R157): a host write to a word or register the host may not write. -/
  | droppedWrite (now : Cycle) (addr : BusAddr) (value : Word)
  /-- LIVE_REFRESH (R177). -/
  | liveRefresh (now : Cycle)
  /-- HOLD_TIMER_EXPIRY (R179). -/
  | holdTimerExpiry (now : Cycle)
  /-- HOST_STORE (R160): a host write to a host-writable word that is not watched. -/
  | hostStore (now : Cycle) (addr : BusAddr) (value : Word)
  deriving DecidableEq, Repr

end Sys2Proof
end

