-- ==== Sys2Proof/Config.lean ====
section
/-!
DEFINITION. The free values of the model: what the manual names without fixing.
Each is an opaque constant, so no proof can see what it is and every claim holds whatever it is.
-/

namespace Sys2Proof

/-- The check byte a scanner computes over a sample (R16). The manual gives no algorithm, so a frame
passes its check exactly when its check byte is this function of its sample (notes/assumptions/4). -/
opaque Config.scannerCheck : Sample → Byte

/-- The contents the exchange memory takes at the `n`th loss of supply (R191: "whatever values the
memory takes at power-on"), as bytes to be stored one after the other (notes/assumptions/5). -/
opaque Config.powerOnContents : Nat → List Host.Cell

end Sys2Proof
end

