-- ==== Sys2Proof/Machine/Memory.lean ====
section
/-!
DEFINITION. The exchange memory as plain data (R157): a list of address and byte pairs in one
canonical form, with little-endian words (R193). Every access goes through the operations here.
-/

namespace Sys2Proof.Machine

open Sys2Proof

/-- The bytes of the exchange memory that differ from `Memory.unlisted`, by byte address. -/
abbrev Memory := List Host.Cell

/-- What an unlisted address reads as. The manual gives no contents for memory that nothing has
written (R191); zero is a DESIGN CHOICE, unsafe (notes/assumptions/3). -/
def Memory.unlisted : Byte := 0

/-- The canonical form: addresses strictly rising, and no entry equal to what an unlisted address
reads as. -/
abbrev Memory.wf (m : Memory) : Prop :=
  m.Pairwise (fun a b => a.1 < b.1) ∧ ∀ c ∈ m, c.2 ≠ Memory.unlisted

/-- One byte of the memory. -/
def Memory.readByte (m : Memory) (a : Nat) : Byte := (m.lookup a).getD Memory.unlisted

/-- The listed cells of a run of bytes from address `base`. -/
def Memory.cells (base : Nat) : List Byte → Memory
  | [] => []
  | b :: bs =>
    if b = Memory.unlisted then Memory.cells (base + 1) bs
    else (base, b) :: Memory.cells (base + 1) bs

/-- The one write of the model: a run of bytes from address `base` replaces what stood there. -/
def Memory.writeBytes (m : Memory) (base : Nat) (bs : List Byte) : Memory :=
  m.filter (fun c => c.1 < base) ++ (Memory.cells base bs ++
    m.filter (fun c => base + bs.length ≤ c.1))

/-- The four bytes of a word, the less significant first (R193: little-endian). -/
def wordBytes (w : Word) : List Byte :=
  [w.extractLsb' 0 8, w.extractLsb' 8 8, w.extractLsb' 16 8, w.extractLsb' 24 8]

/-- A word from four bytes, the less significant first (R193). -/
def wordOfBytes (b0 b1 b2 b3 : Byte) : Word := b3 ++ b2 ++ b1 ++ b0

/-- One aligned word of the memory at byte address `a` (R158). -/
def Memory.readWord (m : Memory) (a : Nat) : Word :=
  wordOfBytes (m.readByte a) (m.readByte (a + 1)) (m.readByte (a + 2)) (m.readByte (a + 3))

/-- Consecutive words stored from byte address `base`. -/
def Memory.writeWords (m : Memory) (base : Nat) (ws : List Word) : Memory :=
  m.writeBytes base (ws.flatMap wordBytes)

/-- One word stored at byte address `a` (R158: a write stores one whole word). -/
def Memory.writeWord (m : Memory) (a : Nat) (w : Word) : Memory := m.writeBytes a (wordBytes w)

/-- A run of `n` bytes set to zero. -/
def Memory.zero (m : Memory) (base n : Nat) : Memory := m.writeBytes base (List.replicate n 0)

/-- A list of cells stored one after the other. -/
def Memory.storeAll (m : Memory) (cs : List Host.Cell) : Memory :=
  cs.foldl (fun m c => m.writeBytes c.1 [c.2]) m

end Sys2Proof.Machine
end

