-- ==== Sys2Proof/Machine/MemoryMap.lean ====
section
/-!
DEFINITION. The areas of the exchange memory, who may write each word (R157), the registers (R159)
and the watched words (R160).
-/

namespace Sys2Proof.Machine

open Sys2Proof

/-- Site header (R157, R194). -/
def headerBase : Nat := 0x00000

/-- Head of order slot `n` (R157, R195). -/
def slotBase (n : Fin 16) : Nat := 0x00200 + 512 * n.val

/-- Mirror record of board position `p` (R157, R196). -/
def mirrorBase (p : Fin 32) : Nat := 0x02200 + 64 * p.val

/-- Live view (R157, R196). -/
def liveBase : Nat := 0x02A00

/-- Configuration area (R157, R197). -/
def configBase : Nat := 0x02C00

/-- Vehicle record `n` of the consist area (R157, R197). -/
def consistBase (n : Nat) : Nat := 0x03000 + 32 * n

/-- Journal unit `u` (R157). -/
def unitBase (u : Nat) : Nat := 0x07000 + 32 * u

/-- What a host write to one word address does (R157, R159, R160). -/
inductive HostWord where
  /-- The POST word of a slot: a watched word (R160). -/
  | post (slot : Fin 16)
  /-- The RELEASE word: a watched word (R160). -/
  | release
  /-- A host-writable word that is not watched: a store (R160). -/
  | store
  /-- ATTN_MASK (R159). -/
  | attnMask
  /-- SITE_CTRL (R159). -/
  | siteCtrl
  /-- A word the host may not write, or an address beyond the registers: dropped (R157, R159). -/
  | dropped
  deriving DecidableEq, Repr

/-- The class of a host write inside an order slot, by offset from the slot's head: POST, and the
kind and the four argument words, are the host's (R157, R195). -/
def slotWord (slot : Fin 16) (offset : Nat) : HostWord :=
  if offset = 0 then .post slot
  else if 0x0C ≤ offset ∧ offset < 0x20 then .store
  else .dropped

/-- The class of a host write, by the table of R157 and R159. -/
def hostWord (addr : BusAddr) : HostWord :=
  let o := 4 * addr.toNat
  if o = 4 then .release
  else if 0x200 ≤ o ∧ o < 0x2200 then slotWord (Fin.ofNat 16 ((o - 0x200) / 512)) ((o - 0x200) % 512)
  else if 0x2C00 ≤ o ∧ o < 0x7000 then .store
  else if 0x2F000 ≤ o ∧ o < 0x40000 then .store
  else if o = 0x40008 then .attnMask
  else if o = 0x4000C then .siteCtrl
  else .dropped

/-- The areas a full reset zeroes (R161): the site header, the head of each slot, the mirror and the
live view, as byte address and length. -/
def resetAreas : List (Nat × Nat) :=
  (headerBase, 512) :: (List.finRange 16).map (fun n => (slotBase n, 0x40)) ++
    [(0x02200, 32 * 64), (liveBase, 512)]

end Sys2Proof.Machine
end

