-- ==== Sys2Proof/Machine/Settings.lean ====
section
/-!
DEFINITION. The working configuration: the forty fields of section 10.2, in their index order, with
the defaults of that table (R181). Plain counts and distances, so plain numbers.
-/

namespace Sys2Proof.Machine

open Sys2Proof

/-- The two conventions of the stop line (chapter 7). -/
inductive LineMode where
  | level | pulse
  deriving DecidableEq, Repr

/-- One value for each field of section 10.2. Channel lists stand in the channel order of R171,
by name after rail swap. -/
structure Settings where
  stuckLimit : Nat
  approachTimeout : Nat
  quietTimeout : Nat
  openLimit : Nat
  cribWindow : Nat
  scanWindow : Nat
  vLoadMin : Nat
  vLoadMax : Nat
  vFlatMin : Nat
  vScanMin : Nat
  vScanMax : Nat
  dWarn : Nat
  dStop : Nat
  qStop : Nat
  lMin : Nat
  overloadExcess : Nat
  imbPct : Nat
  defaultAxleLimit : Nat
  bogieMax : Nat
  hotWarn : Nat
  hotStop : Nat
  wheelWarn : Nat
  wheelStop : Nat
  diffWarn : Nat
  alarmWindow : Nat
  ackTimeout : Nat
  pulseWidth : Nat
  highMark : Nat
  driftLimits : Vector Nat 16
  zeroRefs : Vector Int 16
  gains : Vector Nat 16
  g1 : Nat
  g2 : Nat
  g3 : Nat
  averaging : Nat
  cribs : Vector Nat 16
  scanners : Vector Nat 4
  lowMark : Nat
  railSwap : Bool
  lineMode : LineMode
  deriving DecidableEq, Repr

/-- The working configuration after a full reset: the Default column of section 10.2. -/
def Settings.defaults : Settings where
  stuckLimit := 120
  approachTimeout := 300
  quietTimeout := 60
  openLimit := 3600
  cribWindow := 300
  scanWindow := 150
  vLoadMin := 1389
  vLoadMax := 44444
  vFlatMin := 4167
  vScanMin := 1389
  vScanMax := 55556
  dWarn := 700
  dStop := 1500
  qStop := 768
  lMin := 300
  overloadExcess := 400
  imbPct := 15
  defaultAxleLimit := 3200
  bogieMax := 3000
  hotWarn := 600
  hotStop := 900
  wheelWarn := 2000
  wheelStop := 2800
  diffWarn := 250
  alarmWindow := 30
  ackTimeout := 1000
  pulseWidth := 500
  highMark := 4096
  driftLimits := Vector.replicate 16 1000
  zeroRefs := Vector.replicate 16 0
  gains := Vector.replicate 16 16384
  g1 := 0
  g2 := 3000
  g3 := 6000
  averaging := 4
  cribs := #v[900, 1500, 2100, 2700, 3300, 3900, 4500, 5100,
              900, 1500, 2100, 2700, 3300, 3900, 4500, 5100]
  scanners := Vector.replicate 4 4200
  lowMark := 2048
  railSwap := false
  lineMode := .level

/-- Cycles per output point: cpp = 500 N (R9). -/
def Settings.cyclesPerPoint (c : Settings) : Nat := 500 * c.averaging

/-- Seconds in oscillator cycles, at 10,000 cycles per millisecond (R20, R24). -/
def secondsToCycles (n : Nat) : Nat := 10000000 * n

/-- Milliseconds in oscillator cycles (R20, R122). -/
def millisToCycles (n : Nat) : Nat := 10000 * n

/-- The hold window in milliseconds of site time (R107): the alarm window is in tenths of a second. -/
def Settings.holdWindow (c : Settings) : Nat := 100 * c.alarmWindow

end Sys2Proof.Machine
end

