-- ==== Sys2Proof/Machine/State.lean ====
section
/-!
DEFINITION. The whole state of the Felsjar 7240 as plain data, block by block in the manual's order,
and the machine right after a full reset at power-up (R191, R200).
-/

namespace Sys2Proof.Machine

open Sys2Proof

/-- Why the block would stop. The manual gives every command an effect in every state, so there is no
fault at all: the type has no constructor, and nobody raises one (safe). -/
inductive Fault where
  deriving DecidableEq, Repr

/-- Why a command has no meaning in the model. -/
inductive Refusal where
  /-- Raised by a dispatch arm of a command that has no meaning yet; no arm does (safe). -/
  | notModelled (mnemonic : String)
  deriving DecidableEq, Repr

/-! ### Front end (chapter 1) -/

/-- The service state of a channel, in the code order of R193. -/
inductive Service where
  | inService | stuck | drift | flat | link | ambient | outOfService
  deriving DecidableEq, Repr

/-- Which elements of a detector are covered (R4). -/
inductive DecoderState where
  | clear | oneW | oneE | both
  deriving DecidableEq, Repr

/-- The sides of a detector (R4). -/
inductive Side where
  | west | east
  deriving DecidableEq, Repr

/-- A direction of travel (R5). -/
inductive Dir where
  | east | west
  deriving DecidableEq, Repr

/-- A detector: the four items of its decoder (R4) and its service state (R1). An absent entry side
is the manual's "unknown"; the stuck timer holds its start. -/
structure Detector where
  decoder : DecoderState
  entrySide : Option Side
  candidate : Option Cycle
  stuckTimer : Option Cycle
  service : Service
  deriving DecidableEq, Repr

/-- One output point of a strain history with its clip marker (R9). -/
structure Point where
  value : Int
  clip : Bool
  deriving DecidableEq, Repr

/-- The state of one physical strain input (R2). -/
structure StrainChannel where
  /-- The history ring, newest point first, at most 32,768 points (R10). -/
  history : List Point
  /-- The index of the next point to complete: one above the newest complete index (R10). -/
  next : Nat
  /-- The baseline in 1/256 count, absent before the first point (R11, R15). -/
  baseline : Option Int
  /-- The cycle at which the flat run began, absent while no run has begun (R13). -/
  flatRun : Option Cycle
  service : Service
  deriving DecidableEq, Repr

/-- The state of one physical scanner link (R2). -/
structure Scanner where
  /-- The latest complete slots, newest first, at most 8,192; `none` is a gap (R16). -/
  history : List (Option Sample)
  /-- The samples that have arrived in slots not yet complete, by slot (R16). -/
  arrivals : List (Nat × Sample)
  /-- The latest accepted sample (R17, R178). -/
  latest : Option Sample
  /-- Whether a sample has arrived since the previous ambient update instant (R17). -/
  fresh : Bool
  /-- The ambient in 1/64 of 0.1 degree, absent before the first sample (R17). -/
  ambient : Option Int
  /-- The start of the link timer (R18). -/
  linkTimer : Cycle
  service : Service
  deriving DecidableEq, Repr

/-- The trim state (R20). -/
inductive Trim where
  | none | trimmed | lost
  deriving DecidableEq, Repr

/-- The Timebase Unit (R20 to R23). -/
structure Timebase where
  cycle : Cycle
  /-- F, cycles per second. -/
  rate : Nat
  /-- The F the millisecond accumulator is compared with: a new F takes effect at the next cycle
  (R23). -/
  rateInForce : Nat
  trim : Trim
  /-- The time of the previous pulse (R21). -/
  prevPulse : Option Cycle
  /-- The time of the last accepted pulse (R22). -/
  lastAccepted : Option Cycle
  siteTime : SiteTime
  /-- The millisecond accumulator (R23). -/
  accumulator : Nat
  deriving DecidableEq, Repr

/-- The Strain Acquisition Unit, by physical input. -/
structure Strain where
  channels : Vector StrainChannel 16
  /-- The instant of the last baseline update: the update of an instant is made once (R11). -/
  updatedAt : Option Cycle
  deriving DecidableEq, Repr

/-- The Thermal Scan Unit, by physical link. -/
structure Thermal where
  scanners : Vector Scanner 4
  /-- The slot that is open: one above the newest complete slot (R16). -/
  nextSlot : Nat
  /-- The instant of the last ambient update: the update of an instant is made once (R17). -/
  updatedAt : Option Cycle
  deriving DecidableEq, Repr

/-! ### Consists (chapter 5) -/

/-- The kinds of vehicle (R86). -/
inductive VehicleKind where
  | locomotive | wagon | coach
  deriving DecidableEq, Repr

/-- A vehicle record of a consist (R86). A load limit of 0 means the site default limit. -/
structure Vehicle where
  tag : List Byte
  axles : Nat
  limit : Nat
  kind : VehicleKind
  deriving DecidableEq, Repr

/-- The vehicle results formed at close (R96). -/
structure VehicleResult where
  firstAxle : Option Nat
  mapped : Nat
  load : Nat
  weighed : Nat
  alarmBits : BitVec 6
  deriving DecidableEq, Repr

/-! ### Axle entries (sections 2.5, 3.7 and 4.4) -/

/-- The state of an axle entry (R38, R39). -/
inductive AxleState where
  | entered | passed | settling | settled | skipped | backed
  deriving DecidableEq, Repr

/-- A run of an axle (R38). -/
structure Run where
  number : Nat
  t1 : Option Cycle
  t2 : Option Cycle
  t3 : Option Cycle
  broken : Bool
  twoGate : Bool
  deriving DecidableEq, Repr

/-- Where an axle-load limit came from (R92). -/
inductive LimitSource where
  | consist | default
  deriving DecidableEq, Repr

/-- The per-rail part of a load result (R70); an absent value is invalid. -/
structure RailLoad where
  load : Option Nat
  peak : Option Nat
  dynamic : Option Nat
  ratio : Option Nat
  validCribs : Nat
  tooFew : Bool
  clipped : Bool
  unresolved : Bool
  noLoad : Bool
  deriving DecidableEq, Repr

/-- A run's load result (R70). -/
structure LoadResult where
  railA : RailLoad
  railB : RailLoad
  axleLoad : Option Nat
  outOfRange : Bool
  noSpeed : Bool
  creep : Bool
  disagreement : Bool
  twoGate : Bool
  run : Nat
  limit : Nat
  source : LimitSource
  deriving DecidableEq, Repr

/-- Why a rise is invalid, in the order of R76 and the code order of R198. -/
inductive RiseReason where
  | noSpeed | speed | service | ambient | aged | samples
  deriving DecidableEq, Repr

/-- A run's rise at one scanner (R76). -/
inductive Rise where
  | valid (value : Nat)
  | invalid (reason : RiseReason)
  deriving DecidableEq, Repr

/-- A rise slot of an axle entry (R79). -/
inductive RiseSlot where
  | empty
  | valid (value run : Nat)
  | invalid (reason : RiseReason) (run : Nat)
  deriving DecidableEq, Repr

/-- The temperature results of an axle entry: one rise slot per scanner, in the order BA, BB, WA, WB,
and the record run number (R79). -/
structure TempResults where
  slots : Vector RiseSlot 4
  recordRun : Nat
  deriving DecidableEq, Repr

/-- An axle entry (R38); its index is its place in the table. The limit used stands in its load
result. The alarm bits are bit k - 1 for kind code k (R193). -/
structure AxleEntry where
  state : AxleState
  run : Run
  revisits : Nat
  speed : Option Nat
  load : Option LoadResult
  temps : Option TempResults
  consistLate : Bool
  alarmBits : BitVec 6
  bogie : Nat
  vehicle : Nat
  deriving DecidableEq, Repr

/-! ### Alarms (chapter 6) -/

/-- The kinds of alarm, in the code order of R193. -/
inductive AlarmKind where
  | wheelFlat | overload | imbalance | hotBearing | hotWheel | bearingDiff
  deriving DecidableEq, Repr

/-- The levels of an alarm. -/
inductive Level where
  | note | warn | stop
  deriving DecidableEq, Repr

/-- The rail of an alarm. -/
inductive Rail where
  | none | a | b
  deriving DecidableEq, Repr

/-- An alarm as it reaches the Alarm Board (chapter 6, introduction). -/
structure Alarm where
  kind : AlarmKind
  level : Level
  train : Word
  axle : Nat
  rail : Rail
  value : Nat
  threshold : Nat
  deriving DecidableEq, Repr

/-- The board outcome of an alarm entry (R102), in the code order of R199. -/
inductive BoardOutcome where
  | none | informed | pending | committed | vetoed | cleared | unboarded | evicted
  deriving DecidableEq, Repr

/-- An entry of a train's alarm entry list (R100); an absent outcome is one before the final copy. -/
structure AlarmEntry where
  axle : Nat
  rail : Rail
  kind : AlarmKind
  level : Level
  value : Nat
  threshold : Nat
  id : Nat
  unboarded : Bool
  outcome : Option BoardOutcome
  deriving DecidableEq, Repr

/-- The states of an alarm record (R105). -/
inductive RecordState where
  | informed | pending | committed | vetoed | cleared
  deriving DecidableEq, Repr

/-- The last decision on an alarm record (R104). -/
inductive Decision where
  | none | veto | confirm | defer | clear
  deriving DecidableEq, Repr

/-- An alarm record of the board (R104). Its creation order stands in `Board.order`. -/
structure AlarmRecord where
  id : Nat
  state : RecordState
  level : Level
  kind : AlarmKind
  train : Word
  axle : Nat
  rail : Rail
  value : Nat
  threshold : Nat
  raised : SiteTime
  deadline : Option SiteTime
  deferred : Bool
  decision : Decision
  deriving DecidableEq, Repr

/-- The Alarm Board (R104 to R110). -/
structure Board where
  /-- The 32 positions, each empty or holding a record. -/
  positions : Vector (Option AlarmRecord) 32
  /-- The version of each position (R118). -/
  versions : Vector Word 32
  /-- The occupied positions in creation order, oldest first (R104). -/
  order : List (Fin 32)
  nextId : Nat
  unlistedStops : Nat
  deriving DecidableEq, Repr

/-! ### Trains (chapter 2) -/

/-- The state of a train buffer (R27). -/
inductive BufferState where
  | free | opened | closing | held | writing
  deriving DecidableEq, Repr

/-- The close status of a train (R40), in the code order of R199. -/
inductive CloseStatus where
  | cleared | withdrawn | timedOut | abandoned | cutShort
  deriving DecidableEq, Repr

/-- The quiet timer (R41): running from an instant with the cycles then left, or suspended with the
cycles left; or run out at an instant whose crossing was taken first, so that its expiry did not happen
(R40). -/
inductive QuietTimer where
  | stopped
  | running (since : Cycle) (left : Nat)
  | suspended (left : Nat)
  | forgone
  deriving DecidableEq, Repr

/-- The record of a train (R29). The staging deque stands head first, each record with its
entry-gate time or without one. -/
structure TrainRecord where
  number : Word
  dir : Dir
  openTime : SiteTime
  closeTime : Option SiteTime
  status : Option CloseStatus
  entries : Nat
  f : Nat
  overflow : Nat
  x : Nat
  overflowExit : Nat
  staging : List (Option Cycle)
  entryNet : Int
  exitNet : Int
  revisits : Nat
  skipped : Nat
  underrun : Bool
  phantom : Bool
  stagingOverflow : Bool
  countDisagreement : Bool
  tableOverflow : Bool
  substituted : Bool
  sensorFault : Bool
  untrimmed : Bool
  /-- The integer ambients at opening of BA, BB, WA, WB (R28). -/
  ambients : Vector (Option Int) 4
  quiet : QuietTimer
  /-- The start of the open-limit timer (R42). -/
  openLimit : Option Cycle
  deriving DecidableEq, Repr

/-- A train buffer (R27): the record, the axle table, the consist, the alarm entry list with its
counters (R100), and what the close computations leave (R96, R97). -/
structure Buffer where
  state : BufferState
  record : TrainRecord
  axles : List AxleEntry
  consist : Option (List Vehicle)
  alarms : List AlarmEntry
  unlistedEntries : Nat
  boardFull : Bool
  vehicles : List VehicleResult
  mismatch : Bool
  deriving DecidableEq, Repr

/-- The count-only record (R27, R91): the train record, and how many vehicles the discarded consist
listed, if one was present. -/
structure CountOnly where
  record : TrainRecord
  vehicles : Option Nat
  deriving DecidableEq, Repr

/-- The approach counts of AP-W and AP-E and the start of the approach timer (R25). -/
structure Approach where
  countW : Int
  countE : Int
  timer : Cycle
  deriving DecidableEq, Repr

/-- The tracker state (R24). -/
inductive Tracker where
  | idle
  | approach (a : Approach)
  | opened
  deriving DecidableEq, Repr

/-- The Train Tracker. -/
structure Tracking where
  tracker : Tracker
  /-- The number of the latest train (R26). -/
  trainNumber : Word
  buffers : Vector Buffer 4
  countOnly : Option CountOnly
  deriving DecidableEq, Repr

/-! ### Settlement (chapter 3) -/

/-- A settlement request with its copy of the run (R48), and the train's direction, fixed at opening
(R26), from which distances are measured (R55). -/
structure Request where
  train : Word
  axle : Nat
  run : Nat
  dir : Dir
  t1 : Option Cycle
  t2 : Cycle
  t3 : Cycle
  twoGate : Bool
  deriving DecidableEq, Repr

/-- The speed found for a segment (R55). -/
inductive SegmentSpeed where
  | absent | invalid | creep
  | valid (v : Nat)
  deriving DecidableEq, Repr

/-- A range of point or slot indices, both inclusive (R59, R73). -/
structure Window where
  lo : Int
  hi : Int
  deriving DecidableEq, Repr

/-- What extraction read of one crib window: whether the crib is valid, its points, and the integer
baseline (R50, R59). -/
structure CribRead where
  valid : Bool
  points : List Point
  baseline : Int
  deriving DecidableEq, Repr

/-- What extraction read of one scanner window (R74). -/
structure ScanRead where
  aged : Bool
  slots : List (Option Sample)
  ambient : Option Int
  deriving DecidableEq, Repr

/-- What a settlement read at its extraction (R50), with the instant. -/
structure Extracted where
  instant : Cycle
  cribs : List CribRead
  scans : List ScanRead
  deriving DecidableEq, Repr

/-- A settlement in flight: its request, the inputs fixed at the take (R49), the speeds, the windows in
channel order by name (none with an invalid axle speed), and what extraction read. -/
structure Settlement where
  request : Request
  rate : Nat
  strainInService : Vector Bool 16
  scannerInService : Vector Bool 4
  settings : Settings
  limit : Nat
  source : LimitSource
  segmentA : SegmentSpeed
  segmentB : SegmentSpeed
  cribWindows : List Window
  scanWindows : List Window
  extracted : Option Extracted
  deriving DecidableEq, Repr

/-- The Settlement Engine. -/
structure Settling where
  queue : List Request
  inFlight : Option Settlement
  /-- The last-end marks, by physical input (R59). -/
  lastEnd : Vector (Option Int) 16
  deriving DecidableEq, Repr

/-! ### Stop line (chapter 7) -/

/-- The sequence phase (R122). -/
inductive Phase where
  | idle | spacing | pulsing | listening | trailing
  deriving DecidableEq, Repr

/-- The Stop Line Interface (R122); a timer holds its start, absent while stopped. -/
structure StopLine where
  mode : LineMode
  stopOut : Bool
  ackLevel : Bool
  demand : Bool
  fault : Bool
  ackTimer : Option Cycle
  phase : Phase
  attempt : Option Nat
  pulseTimer : Option Cycle
  listenTimer : Option Cycle
  owed : Bool
  stray : Nat
  deriving DecidableEq, Repr

/-! ### Reports (chapter 8) -/

/-- The forms of a report and the filler, in the code order of R199. -/
inductive Form where
  | full | summary | stub | filler
  deriving DecidableEq, Repr

/-- The header fields fixed when a report joins the held queue (R138). -/
structure ReportHeader where
  number : Word
  dir : Dir
  status : CloseStatus
  openTime : SiteTime
  closeTime : SiteTime
  netAxles : Nat
  entries : Nat
  revisits : Nat
  skipped : Nat
  speedMin : Option Nat
  speedMax : Option Nat
  speedMean : Option Nat
  totalLoad : Nat
  unweighed : Nat
  notes : Nat
  warns : Nat
  stops : Nat
  unlisted : Nat
  consistPresent : Bool
  vehicleCount : Nat
  mismatch : Bool
  sensorFault : Bool
  untrimmed : Bool
  tableOverflow : Bool
  underrun : Bool
  phantom : Bool
  stagingOverflow : Bool
  countDisagreement : Bool
  substituted : Bool
  boardFull : Bool
  ambients : Vector (Option Int) 4
  deriving DecidableEq, Repr

/-- A report of the held queue (R136): buffered, naming its buffer, or a stub; with its header and, for
a buffered report, the FULL and SUMMARY sizes computed at the join (R142). -/
structure HeldReport where
  buffer : Option (Fin 4)
  header : ReportHeader
  fullSize : Nat
  summarySize : Nat
  deriving DecidableEq, Repr

/-- The write in flight of the head of the held queue (R136, R147). -/
structure ReportWrite where
  form : Form
  sequence : Word
  start : Nat
  filler : Nat
  size : Nat
  vehicles : Nat
  axles : Nat
  alarms : Nat
  startedAt : Cycle
  deriving DecidableEq, Repr

/-- An entry of the journal index (R136). -/
structure IndexEntry where
  sequence : Word
  filler : Nat
  start : Nat
  size : Nat
  deriving DecidableEq, Repr

/-- The Report Writer (R136). -/
structure Reports where
  held : List HeldReport
  write : Option ReportWrite
  lastWritten : Word
  accepted : Word
  position : Nat
  oldest : Nat
  unreleased : Nat
  index : List IndexEntry
  highArmed : Bool
  lost : Nat
  deriving DecidableEq, Repr

/-! ### Orders, site modes, attention, live view (chapters 9 and 10) -/

/-- The state of an order slot (R162). -/
inductive SlotState where
  | idle | queued | running | waiting | done
  deriving DecidableEq, Repr

/-- The outcome of an order, in the code order of R195. -/
inductive OrderOutcome where
  | none | done | replaced | badArgument | unknownKind | busy | notArmed | noTrain | noBuffer
  | noSuchAlarm | notPending | tooLate | alreadyDeferred | notCommitted | badConfig | aborted
  deriving DecidableEq, Repr

/-- The part's own words of an order slot (R162). POST, the kind and the arguments are the host's and
stand in the memory alone. -/
structure Slot where
  state : SlotState
  outcome : OrderOutcome
  ticket : Word
  result1 : Word
  result2 : Word
  deriving DecidableEq, Repr

/-- The running order with the kind and arguments read at its take (R165). -/
structure RunningOrder where
  slot : Fin 16
  kind : Word
  arg1 : Word
  arg2 : Word
  arg3 : Word
  arg4 : Word
  takenAt : Cycle
  deriving DecidableEq, Repr

/-- The waiting mode order: an ARM with its pending configuration and clamp set (R185), or a DISARM with
the buffer it waits on (R188). -/
inductive WaitingOrder where
  | arm (slot : Fin 16) (candidate : Settings) (clampSet : Word)
  | disarm (slot : Fin 16) (buffer : Fin 4)
  deriving DecidableEq, Repr

/-- The Order Unit (R162 to R168). -/
structure Orders where
  slots : Vector Slot 16
  queue : List (Fin 16)
  running : Option RunningOrder
  waiting : Option WaitingOrder
  deriving DecidableEq, Repr

/-- The site mode (R181). -/
inductive SiteMode where
  | halt | watch
  deriving DecidableEq, Repr

/-- The site mode machine (R181). Its pending configuration stands with the waiting ARM. -/
structure Site where
  mode : SiteMode
  latched : Bool
  settings : Settings
  latchCount : Word
  deriving DecidableEq, Repr

/-- The Attention Unit (R173, R174): the pending flags and the enables, one bit per cause in the order
of R194. -/
structure Attention where
  pending : BitVec 8
  mask : BitVec 8
  deriving DecidableEq, Repr

/-- The Live View Unit (R177 to R180). -/
structure LiveView where
  generation : Word
  /-- The start of the hold timer; absent while no hold is in force (R179). -/
  hold : Option Cycle
  /-- The last speed handed on by the SE (R51, R178). -/
  lastSpeed : Option Nat
  /-- The last refresh instant: the refresh of an instant is made once (R177). -/
  refreshedAt : Option Cycle
  deriving DecidableEq, Repr

/-- The reset pin and the supplies in millivolts (R200). `held` is the hold in full reset;
`supplyLost` says that a supply has left its range during the hold; `losses` counts the losses of
supply and is the MODEL's own field, the argument of the free memory contents. -/
structure Power where
  resetN : Bool
  vddCore : Nat
  vddIo : Nat
  held : Bool
  supplyLost : Bool
  losses : Nat
  deriving DecidableEq, Repr

/-- The whole block, and the queue of commands that wait to be taken. -/
structure State where
  /-- The waiting commands, first in first out (the model's own field). -/
  pending : List Instr
  /-- The exchange memory (R157). -/
  mem : Memory
  power : Power
  /-- The word the part last put on the host bus in answer to a read of ATTN (R175). -/
  bus : Word
  tbu : Timebase
  /-- The detectors, in the order of R171. -/
  wdi : Vector Detector 5
  sau : Strain
  tsu : Thermal
  tt : Tracking
  se : Settling
  /-- The NEXT slot of the Consist Unit (R86). -/
  next : Option (List Vehicle)
  ab : Board
  sli : StopLine
  rpw : Reports
  ou : Orders
  site : Site
  atu : Attention
  lvu : LiveView
  deriving DecidableEq, Repr

/-! ### The state after a full reset -/

/-- A detector after a full reset (R8). -/
def Detector.reset : Detector := ⟨.clear, none, none, none, .inService⟩

/-- A strain input after a full reset (R15). -/
def StrainChannel.reset : StrainChannel := ⟨[], 0, none, none, .inService⟩

/-- A scanner link after a full reset (R19). -/
def Scanner.reset : Scanner := ⟨[], [], none, false, none, 0, .inService⟩

/-- The Timebase Unit after a full reset (R20, R21, R23). -/
def Timebase.reset : Timebase where
  cycle := 0
  rate := 10000000
  rateInForce := 10000000
  trim := .none
  prevPulse := none
  lastAccepted := none
  siteTime := 0
  accumulator := 0

/-- The record of a buffer that holds no train. -/
def TrainRecord.blank : TrainRecord where
  number := 0
  dir := .east
  openTime := 0
  closeTime := none
  status := none
  entries := 0
  f := 0
  overflow := 0
  x := 0
  overflowExit := 0
  staging := []
  entryNet := 0
  exitNet := 0
  revisits := 0
  skipped := 0
  underrun := false
  phantom := false
  stagingOverflow := false
  countDisagreement := false
  tableOverflow := false
  substituted := false
  sensorFault := false
  untrimmed := false
  ambients := Vector.replicate 4 none
  quiet := .stopped
  openLimit := none

/-- A FREE buffer, with its contents lost (R27). -/
def Buffer.empty : Buffer where
  state := .free
  record := TrainRecord.blank
  axles := []
  consist := none
  alarms := []
  unlistedEntries := 0
  boardFull := false
  vehicles := []
  mismatch := false

/-- The Train Tracker after a full reset (R46). -/
def Tracking.reset : Tracking := ⟨.idle, 0, Vector.replicate 4 Buffer.empty, none⟩

/-- The Settlement Engine after a full reset (R48, R54). -/
def Settling.reset : Settling := ⟨[], none, Vector.replicate 16 none⟩

/-- The Alarm Board after a full reset (R120). -/
def Board.reset : Board := ⟨Vector.replicate 32 none, Vector.replicate 32 0, [], 1, 0⟩

/-- The Stop Line Interface after a full reset (R122). -/
def StopLine.reset : StopLine where
  mode := .level
  stopOut := false
  ackLevel := false
  demand := false
  fault := false
  ackTimer := none
  phase := .idle
  attempt := none
  pulseTimer := none
  listenTimer := none
  owed := false
  stray := 0

/-- The Report Writer after a full reset (R136). -/
def Reports.reset : Reports where
  held := []
  write := none
  lastWritten := 0
  accepted := 0
  position := 0
  oldest := 0
  unreleased := 0
  index := []
  highArmed := true
  lost := 0

/-- An order slot after a full reset (R161, R169). -/
def Slot.reset : Slot := ⟨.idle, .none, 0, 0, 0⟩

/-- The Order Unit after a full reset (R169). -/
def Orders.reset : Orders := ⟨Vector.replicate 16 Slot.reset, [], none, none⟩

/-- The site mode machine after a full reset (R181). -/
def Site.reset : Site := ⟨.halt, false, Settings.defaults, 0⟩

/-- The supplies in range and the reset pin high (R200); the two voltages within the ranges are a
DESIGN CHOICE (notes/assumptions/7). -/
def Power.good : Power := ⟨true, 1200, 3300, false, false, 0⟩

/-- The machine right after the full reset of power-up (R191). The memory lists one byte: the site
header shows *high armed* set (R155, R161). -/
def State.reset : State where
  pending := []
  mem := [(0x1A, 1)]
  power := Power.good
  bus := 0
  tbu := Timebase.reset
  wdi := Vector.replicate 5 Detector.reset
  sau := ⟨Vector.replicate 16 StrainChannel.reset, none⟩
  tsu := ⟨Vector.replicate 4 Scanner.reset, 0, none⟩
  tt := Tracking.reset
  se := Settling.reset
  next := none
  ab := Board.reset
  sli := StopLine.reset
  rpw := Reports.reset
  ou := Orders.reset
  site := Site.reset
  atu := ⟨0, 0⟩
  lvu := ⟨0, none, none, none⟩

end Sys2Proof.Machine
end

