-- ==== Sys2Proof/Machine/Operands.lean ====
section
/-!
DEFINITION. The operand forms: bit fields of a word, the codes of R193, R195 and R199, the channel
numbering of R171, argument words, the configuration area and the vehicle records (R197).
-/

namespace Sys2Proof.Machine

open Sys2Proof

/-! ### Bit fields -/

/-- A field of `width` bits at bit `lo`; a count beyond the field stops at its largest value (R193). -/
def bitField (lo width value : Nat) : Nat := min value (2 ^ width - 1) * 2 ^ lo

/-- A word from its fields, each given as its lowest bit, its width and its value. -/
def pack (fields : List (Nat × Nat × Nat)) : Word :=
  BitVec.ofNat 32 ((fields.map (fun x => bitField x.1 x.2.1 x.2.2)).sum)

/-- A Bool as a one-bit field value. -/
def bit (b : Bool) : Nat := if b then 1 else 0

/-- The less significant word of a 64-bit value (R193). -/
def lowWord (v : BitVec 64) : Word := v.extractLsb' 0 32

/-- The more significant word of a 64-bit value (R193). -/
def highWord (v : BitVec 64) : Word := v.extractLsb' 32 32

/-- A signed value as a word. -/
def signedWord (v : Int) : Word := BitVec.ofInt 32 v

/-- A signed value that may be absent: -2,147,483,648 means absent (R193). -/
def optSignedWord (v : Option Int) : Word := signedWord (v.getD (-2147483648))

/-- A count as a word, stopping at the largest value the word holds (R193). -/
def countWord (n : Nat) : Word := BitVec.ofNat 32 (min n 4294967295)

/-- The 64-bit value of two words, the first the less significant (R172, R193). -/
def joinWords (lo hi : Word) : BitVec 64 := hi ++ lo

/-! ### Vectors of channels -/

/-- A vector from a function of its index. -/
def tabulate {α : Type} (n : Nat) (f : Fin n → α) : Vector α n :=
  ⟨((List.finRange n).map f).toArray, by simp⟩

/-- One element of a vector changed. -/
def alter {α : Type} {n : Nat} (v : Vector α n) (i : Fin n) (f : α → α) : Vector α n :=
  v.set i.val (f (v.get i)) i.isLt

/-- Every element of a vector changed. -/
def alterAll {α : Type} {n : Nat} (v : Vector α n) (f : α → α) : Vector α n :=
  ⟨(v.toList.map f).toArray, by simp⟩

/-! ### Channel numbering (R2, R171) -/

/-- The index of a detector (R171). -/
def detIndex : Det → Fin 5
  | .apW => 0
  | .apE => 1
  | .g1 => 2
  | .g2 => 3
  | .g3 => 4

/-- The detector of an index (R171). -/
def detOf (i : Fin 5) : Det :=
  match i with
  | 0 => .apW
  | 1 => .apE
  | 2 => .g1
  | 3 => .g2
  | 4 => .g3

/-- The physical strain input that a channel name maps to: rail swap exchanges X1 to X8 with
Y1 to Y8 (R2). Its own inverse. -/
def strainInput (swap : Bool) (name : Fin 16) : Fin 16 := if swap then name + 8 else name

/-- The physical link that a scanner name maps to: rail swap exchanges L1 with L2 and L3 with L4
(R2). Its own inverse. -/
def scannerLink (swap : Bool) (name : Fin 4) : Fin 4 :=
  if swap then (match name with | 0 => 1 | 1 => 0 | 2 => 3 | 3 => 2) else name

/-! ### Codes -/

/-- Service state codes (R193). -/
def Service.code : Service → Nat
  | .inService => 0
  | .stuck => 1
  | .drift => 2
  | .flat => 3
  | .link => 4
  | .ambient => 5
  | .outOfService => 6

/-- A service state that is one of the faults (R1). -/
def Service.faulted : Service → Bool
  | .inService | .outOfService => false
  | _ => true

/-- Alarm kind codes (R193). -/
def AlarmKind.code : AlarmKind → Nat
  | .wheelFlat => 1
  | .overload => 2
  | .imbalance => 3
  | .hotBearing => 4
  | .hotWheel => 5
  | .bearingDiff => 6

/-- The alarm bit of a kind: bit k - 1 for kind code k (R193). -/
def AlarmKind.bit (k : AlarmKind) : BitVec 6 := 1#6 <<< (k.code - 1)

/-- Alarm level codes (R193). -/
def Level.code : Level → Nat
  | .note => 1
  | .warn => 2
  | .stop => 3

/-- Rail codes (R193). -/
def Rail.code : Rail → Nat
  | .none => 0
  | .a => 1
  | .b => 2

/-- Alarm record state codes (R193). -/
def RecordState.code : RecordState → Nat
  | .informed => 1
  | .pending => 2
  | .committed => 3
  | .vetoed => 4
  | .cleared => 5

/-- Last decision codes (R196). -/
def Decision.code : Decision → Nat
  | .none => 0
  | .veto => 1
  | .confirm => 2
  | .defer => 3
  | .clear => 4

/-- Vehicle kind codes (R193). -/
def VehicleKind.code : VehicleKind → Nat
  | .locomotive => 1
  | .wagon => 2
  | .coach => 3

/-- The vehicle kind of a code (R193, R197). -/
def vehicleKindOf (n : Nat) : Option VehicleKind :=
  match n with
  | 1 => some .locomotive
  | 2 => some .wagon
  | 3 => some .coach
  | _ => none

/-- Direction bit (R193). -/
def Dir.code : Dir → Nat
  | .east => 0
  | .west => 1

/-- The opposite direction. -/
def Dir.reverse : Dir → Dir
  | .east => .west
  | .west => .east

/-- Axle state codes (R198). -/
def AxleState.code : AxleState → Nat
  | .entered => 0
  | .passed => 1
  | .settling => 2
  | .settled => 3
  | .skipped => 4
  | .backed => 5

/-- Close status codes (R199). -/
def CloseStatus.code : CloseStatus → Nat
  | .cleared => 1
  | .withdrawn => 2
  | .timedOut => 3
  | .abandoned => 4
  | .cutShort => 5

/-- Form codes (R199). -/
def Form.code : Form → Nat
  | .full => 1
  | .summary => 2
  | .stub => 3
  | .filler => 4

/-- Board outcome codes (R199). -/
def BoardOutcome.code : BoardOutcome → Nat
  | .none => 1
  | .informed => 2
  | .pending => 3
  | .committed => 4
  | .vetoed => 5
  | .cleared => 6
  | .unboarded => 7
  | .evicted => 8

/-- The code of a rise slot's 12-bit field (R198). -/
def RiseReason.code : RiseReason → Nat
  | .noSpeed => 3001
  | .speed => 3002
  | .service => 3003
  | .ambient => 3004
  | .aged => 3005
  | .samples => 3006

/-- Slot state codes (R195). -/
def SlotState.code : SlotState → Nat
  | .idle => 0
  | .queued => 1
  | .running => 2
  | .waiting => 3
  | .done => 4

/-- Outcome codes (R195). -/
def OrderOutcome.code : OrderOutcome → Nat
  | .none => 0
  | .done => 1
  | .replaced => 2
  | .badArgument => 3
  | .unknownKind => 4
  | .busy => 5
  | .notArmed => 6
  | .noTrain => 7
  | .noBuffer => 8
  | .noSuchAlarm => 9
  | .notPending => 10
  | .tooLate => 11
  | .alreadyDeferred => 12
  | .notCommitted => 13
  | .badConfig => 14
  | .aborted => 15

/-- Decoder state codes (R196). -/
def DecoderState.code : DecoderState → Nat
  | .clear => 0
  | .oneW => 1
  | .oneE => 2
  | .both => 3

/-- Trim state codes (R196). -/
def Trim.code : Trim → Nat
  | .none => 0
  | .trimmed => 1
  | .lost => 2

/-- Tracker state codes (R196). -/
def Tracker.code : Tracker → Nat
  | .idle => 0
  | .approach _ => 1
  | .opened => 2

/-- Sequence phase codes (R194). -/
def Phase.code : Phase → Nat
  | .idle => 0
  | .spacing => 1
  | .pulsing => 2
  | .listening => 3
  | .trailing => 4

/-! ### Order kinds and arguments (R195) -/

/-- The order kinds of section 9.3. -/
inductive OrderKind where
  | arm | disarm | setTime | attachConsist | dropConsist | decideAlarm | clearStop | holdLive
  | releaseLive | peekTrain | setChannelService
  deriving DecidableEq, Repr

/-- The order kind of a kind word; any other word gives UNKNOWN_KIND (R195). -/
def orderKindOf (w : Word) : Option OrderKind :=
  match w.toNat with
  | 1 => some .arm
  | 2 => some .disarm
  | 3 => some .setTime
  | 4 => some .attachConsist
  | 5 => some .dropConsist
  | 6 => some .decideAlarm
  | 7 => some .clearStop
  | 8 => some .holdLive
  | 9 => some .releaseLive
  | 10 => some .peekTrain
  | 11 => some .setChannelService
  | _ => none

/-- The target of a consist order (R195). -/
inductive Target where
  | next | opened
  deriving DecidableEq, Repr

/-- The target of an argument word (R195). -/
def targetOf (w : Word) : Option Target :=
  match w.toNat with
  | 1 => some .next
  | 2 => some .opened
  | _ => none

/-- The decision of an argument word (R195). -/
def decisionOf (w : Word) : Option Decision :=
  match w.toNat with
  | 1 => some .veto
  | 2 => some .confirm
  | 3 => some .defer
  | _ => none

/-- A channel named by class and index (R171). -/
inductive Channel where
  | detector (i : Fin 5)
  | strain (name : Fin 16)
  | scanner (name : Fin 4)
  deriving DecidableEq, Repr

/-- The channel that a class word and an index word name, if there is one (R171, R195). -/
def channelOf (cls idx : Word) : Option Channel :=
  match cls.toNat with
  | 1 => if h : idx.toNat < 5 then some (.detector ⟨idx.toNat, h⟩) else none
  | 2 => if h : idx.toNat < 16 then some (.strain ⟨idx.toNat, h⟩) else none
  | 3 => if h : idx.toNat < 4 then some (.scanner ⟨idx.toNat, h⟩) else none
  | _ => none

/-- The service argument: `some true` for IN, `some false` for OUT (R195). -/
def serviceOf (w : Word) : Option Bool :=
  match w.toNat with
  | 1 => some true
  | 2 => some false
  | _ => none

/-! ### Vehicle records of the consist area (R86, R87, R197) -/

/-- A printable character of a tag (R197). -/
def printable (b : Byte) : Bool := 0x20 ≤ b.toNat && b.toNat ≤ 0x7E

/-- The vehicle of record `n` of the consist area, or `none` if the record fails the checks of R87. -/
def readVehicle (m : Memory) (n : Nat) : Option Vehicle :=
  let at_ (k : Nat) : Byte := m.readByte (consistBase n + k)
  let len := (at_ 12).toNat
  let axles := (at_ 13).toNat
  let tag := (List.range len).map at_
  match vehicleKindOf (at_ 14).toNat with
  | none => none
  | some kind =>
    if len ≤ 12 ∧ 1 ≤ axles ∧ axles ≤ 16 ∧ tag.all printable then
      some { tag := tag, axles := axles, limit := (at_ 16).toNat + 256 * (at_ 17).toNat, kind := kind }
    else none

/-- The vehicles of `count` records from record `first` on: the list, or the position from 1 of the
first failing record (R87). -/
def readVehicles (m : Memory) (first : Nat) : Nat → Nat → Except Nat (List Vehicle)
  | _, 0 => .ok []
  | pos, count + 1 =>
    match readVehicle m (first + (pos - 1)) with
    | none => .error pos
    | some v =>
      match readVehicles m first (pos + 1) count with
      | .error p => .error p
      | .ok vs => .ok (v :: vs)

/-! ### The configuration area (R182, R183, R197) -/

/-- A word of the configuration area as an unsigned number. -/
def configWord (m : Memory) (offset : Nat) : Nat := (m.readWord (configBase + offset)).toNat

/-- A word of the configuration area as a signed number (the zero references, section 10.2). -/
def configSigned (m : Memory) (offset : Nat) : Int := (m.readWord (configBase + offset)).toInt

/-- Every field of the configuration area, as written (R183, R197). -/
def readCandidate (m : Memory) : Settings where
  stuckLimit := configWord m 0x000
  approachTimeout := configWord m 0x004
  quietTimeout := configWord m 0x008
  openLimit := configWord m 0x00C
  cribWindow := configWord m 0x010
  scanWindow := configWord m 0x014
  vLoadMin := configWord m 0x018
  vLoadMax := configWord m 0x01C
  vFlatMin := configWord m 0x020
  vScanMin := configWord m 0x024
  vScanMax := configWord m 0x028
  dWarn := configWord m 0x02C
  dStop := configWord m 0x030
  qStop := configWord m 0x034
  lMin := configWord m 0x038
  overloadExcess := configWord m 0x03C
  imbPct := configWord m 0x040
  defaultAxleLimit := configWord m 0x044
  bogieMax := configWord m 0x048
  hotWarn := configWord m 0x04C
  hotStop := configWord m 0x050
  wheelWarn := configWord m 0x054
  wheelStop := configWord m 0x058
  diffWarn := configWord m 0x05C
  alarmWindow := configWord m 0x060
  ackTimeout := configWord m 0x064
  pulseWidth := configWord m 0x068
  highMark := configWord m 0x06C
  driftLimits := tabulate 16 (fun i => configWord m (0x070 + 4 * i.val))
  zeroRefs := tabulate 16 (fun i => configSigned m (0x0B0 + 4 * i.val))
  gains := tabulate 16 (fun i => configWord m (0x0F0 + 4 * i.val))
  g1 := configWord m 0x130
  g2 := configWord m 0x134
  g3 := configWord m 0x138
  averaging := configWord m 0x13C
  cribs := tabulate 16 (fun i => configWord m (0x140 + 4 * i.val))
  scanners := tabulate 4 (fun i => configWord m (0x180 + 4 * i.val))
  lowMark := configWord m 0x190
  railSwap := configWord m 0x194 != 0
  lineMode := if configWord m 0x198 = 0 then .level else .pulse

/-- A value replaced by the nearest bound of its range (R183). -/
def clampNat (lo hi v : Nat) : Nat := if v < lo then lo else if hi < v then hi else v

/-- A signed value replaced by the nearest bound of its range (R183). -/
def clampInt (lo hi v : Int) : Int := if v < lo then lo else if hi < v then hi else v

/-- The candidate with fields 0 to 30 clamped to the ranges of section 10.2, lists element by element
(R183). Fields 31 to 39 are taken as written. -/
def clampSettings (c : Settings) : Settings :=
  { c with
    stuckLimit := clampNat 30 600 c.stuckLimit
    approachTimeout := clampNat 10 900 c.approachTimeout
    quietTimeout := clampNat 10 600 c.quietTimeout
    openLimit := clampNat 300 14400 c.openLimit
    cribWindow := clampNat 50 600 c.cribWindow
    scanWindow := clampNat 50 400 c.scanWindow
    vLoadMin := clampNat 300 100000 c.vLoadMin
    vLoadMax := clampNat 300 100000 c.vLoadMax
    vFlatMin := clampNat 300 100000 c.vFlatMin
    vScanMin := clampNat 300 100000 c.vScanMin
    vScanMax := clampNat 300 100000 c.vScanMax
    dWarn := clampNat 1 65535 c.dWarn
    dStop := clampNat 1 65535 c.dStop
    qStop := clampNat 1 65535 c.qStop
    lMin := clampNat 1 65535 c.lMin
    overloadExcess := clampNat 0 65535 c.overloadExcess
    imbPct := clampNat 1 100 c.imbPct
    defaultAxleLimit := clampNat 1000 6000 c.defaultAxleLimit
    bogieMax := clampNat 1000 4000 c.bogieMax
    hotWarn := clampNat 1 3000 c.hotWarn
    hotStop := clampNat 1 3000 c.hotStop
    wheelWarn := clampNat 1 3000 c.wheelWarn
    wheelStop := clampNat 1 3000 c.wheelStop
    diffWarn := clampNat 1 3000 c.diffWarn
    alarmWindow := clampNat 0 100 c.alarmWindow
    ackTimeout := clampNat 100 5000 c.ackTimeout
    pulseWidth := clampNat 100 2000 c.pulseWidth
    highMark := clampNat 256 5120 c.highMark
    driftLimits := alterAll c.driftLimits (clampNat 1 32767)
    zeroRefs := alterAll c.zeroRefs (clampInt (-32768) 32767)
    gains := alterAll c.gains (clampNat 0 65535) }

/-- For each of the fields 0 to 30, whether its value differs between two configurations. -/
def fieldChanges (c d : Settings) : List Bool :=
  [c.stuckLimit != d.stuckLimit, c.approachTimeout != d.approachTimeout,
   c.quietTimeout != d.quietTimeout, c.openLimit != d.openLimit,
   c.cribWindow != d.cribWindow, c.scanWindow != d.scanWindow,
   c.vLoadMin != d.vLoadMin, c.vLoadMax != d.vLoadMax, c.vFlatMin != d.vFlatMin,
   c.vScanMin != d.vScanMin, c.vScanMax != d.vScanMax, c.dWarn != d.dWarn,
   c.dStop != d.dStop, c.qStop != d.qStop, c.lMin != d.lMin,
   c.overloadExcess != d.overloadExcess, c.imbPct != d.imbPct,
   c.defaultAxleLimit != d.defaultAxleLimit, c.bogieMax != d.bogieMax,
   c.hotWarn != d.hotWarn, c.hotStop != d.hotStop, c.wheelWarn != d.wheelWarn,
   c.wheelStop != d.wheelStop, c.diffWarn != d.diffWarn, c.alarmWindow != d.alarmWindow,
   c.ackTimeout != d.ackTimeout, c.pulseWidth != d.pulseWidth, c.highMark != d.highMark,
   decide (c.driftLimits ≠ d.driftLimits), decide (c.zeroRefs ≠ d.zeroRefs),
   decide (c.gains ≠ d.gains)]

/-- A list of Bools as a number, the first the least significant bit. -/
def bitsToNat : List Bool → Nat
  | [] => 0
  | b :: bs => bit b + 2 * bitsToNat bs

/-- The clamp set: bit k is set when field k had at least one value replaced (R183). -/
def clampSetOf (c : Settings) : Word := BitVec.ofNat 32 (bitsToNat (fieldChanges c (clampSettings c)))

/-- Whether a window of width `w` at position `p` leaves the gate span, in the form of R184. -/
def leavesSpan (c : Settings) (w p : Nat) : Bool := 2 * p < 2 * c.g1 + w || 2 * c.g3 < 2 * p + w

/-- The checks of R184 on a clamped candidate, by field index, `true` where the check fails. -/
def candidateChecks (c : Settings) : List (Nat × Bool) :=
  [(12, c.dStop < c.dWarn),
   (20, c.hotStop < c.hotWarn),
   (22, c.wheelStop < c.wheelWarn),
   (30, c.gains.toList.any (· == 0)),
   (31, 20000 < c.g1),
   (32, c.g2 ≤ c.g1 || 20000 < c.g2),
   (33, c.g3 ≤ c.g2 || 20000 < c.g3),
   (34, !(c.averaging == 1 || c.averaging == 2 || c.averaging == 4 || c.averaging == 8)),
   (35, c.cribs.toList.any (leavesSpan c c.cribWindow)),
   (36, c.scanners.toList.any (leavesSpan c c.scanWindow)),
   (37, c.highMark ≤ c.lowMark)]

/-- The failing field of a clamped candidate: the first whose check fails (R184). -/
def failingField (c : Settings) : Option Nat :=
  ((candidateChecks c).find? (fun x => x.2)).map (fun x => x.1)

/-! ### Orderings of sequences and train numbers (Conventions, Counters) -/

/-- "a is below b": (b - a) modulo 2^32 lies from 1 to 2^31 - 1. -/
def below (a b : Word) : Bool := 1 ≤ (b - a).toNat && (b - a).toNat ≤ 2147483647

/-- The 32-bit count after `n`: after 4,294,967,295 it goes on at 1 (Counters; R118, R177). -/
def succCount (n : Word) : Word := if n = 4294967295 then 1 else n + 1

/-- The lesser of a written sequence and the last written one (R150): the written one when it is the last
or below it, and otherwise the last, to which it is clamped (notes/assumptions/6). -/
def lesser (v last : Word) : Word := if v = last ∨ below v last then v else last

end Sys2Proof.Machine
end

