-- ==== Sys2Proof/Machine/Flags.lean ====
section
/-!
DEFINITION. The attention causes and the attention line (R173 to R176), and the other conditions of the
state that several blocks read: channel freeze, occupancy, stop demand.
-/

namespace Sys2Proof.Machine

open Sys2Proof

/-- The attention causes, in the bit order of R194. -/
inductive Cause where
  | report | alarm | stopFault | order | journalHigh | train | sensor | liveHold
  deriving DecidableEq, Repr

/-- The bit of a cause in ATTN and ATTN_MASK (R194). -/
def Cause.bit : Cause → BitVec 8
  | .report => 0x01
  | .alarm => 0x02
  | .stopFault => 0x04
  | .order => 0x08
  | .journalHigh => 0x10
  | .train => 0x20
  | .sensor => 0x40
  | .liveHold => 0x80

/-- A block raises a cause: its pending flag is set, masked or not (R173). -/
def State.raise (s : State) (c : Cause) : State :=
  { s with atu := { s.atu with pending := s.atu.pending ||| c.bit } }

/-- The causes that are both pending and unmasked (R175). -/
def Attention.visible (a : Attention) : BitVec 8 := a.pending &&& a.mask

/-- The attention line is asserted exactly when some pending cause is unmasked (R174). The pin ATTN_N
is low while it is asserted (section 11.7). -/
def State.attentionLine (s : State) : Bool := s.atu.visible != 0

/-- All strain channels and scanners are frozen while the tracker is in APPROACH or OPEN (R11, R17,
R24). -/
def State.frozen (s : State) : Bool := decide (s.tt.tracker ≠ .idle)

/-- A detector of the part. -/
def State.detector (s : State) (d : Det) : Detector := s.wdi.get (detIndex d)

/-- Tracking occupancy: the decoder is not CLEAR and the detector is IN_SERVICE (R6). -/
def Detector.tracked (d : Detector) : Bool := d.decoder != .clear && d.service == .inService

/-- No gate is tracking-occupied (R40, R41). -/
def State.gatesClear (s : State) : Bool :=
  !(s.detector .g1).tracked && !(s.detector .g2).tracked && !(s.detector .g3).tracked

/-- The strain channel of a name, under the working configuration's rail swap (R2). -/
def State.strain (s : State) (name : Fin 16) : StrainChannel :=
  s.sau.channels.get (strainInput s.site.settings.railSwap name)

/-- The scanner of a name, under the working configuration's rail swap (R2). -/
def State.scanner (s : State) (name : Fin 4) : Scanner :=
  s.tsu.scanners.get (scannerLink s.site.settings.railSwap name)

/-- The integer baseline: floor(b / 256) (R11). -/
def StrainChannel.integerBaseline (c : StrainChannel) : Option Int := c.baseline.map (· / 256)

/-- The integer ambient: floor(a / 64) (R17). -/
def Scanner.integerAmbient (c : Scanner) : Option Int := c.ambient.map (· / 64)

/-- The integer ambients of BA, BB, WA and WB (R28). -/
def State.ambients (s : State) : Vector (Option Int) 4 := tabulate 4 (fun i => (s.scanner i).integerAmbient)

/-- Some channel of the 25 is in a FAULTED state (R28). -/
def State.anyFaulted (s : State) : Bool :=
  s.wdi.toList.any (·.service.faulted) || s.sau.channels.toList.any (·.service.faulted) ||
    s.tsu.scanners.toList.any (·.service.faulted)

/-- The stop demand: at least one record is COMMITTED or the unlisted-stop count is above zero
(R117). -/
def Board.demand (b : Board) : Bool :=
  b.positions.toList.any (fun r => r.any (fun r => r.state == .committed)) || 0 < b.unlistedStops

/-- A record is spent while it is INFORMED, VETOED or CLEARED (R105). -/
def RecordState.spent : RecordState → Bool
  | .informed | .vetoed | .cleared => true
  | .pending | .committed => false

end Sys2Proof.Machine
end

