-- ==== Sys2Proof/Machine/Ops.lean ====
section
/-!
DEFINITION. The shared operations: taking an event at its instant, elapsed time, the train buffers, and
the words of the site header that the part writes at each change of what they show.
-/

namespace Sys2Proof.Machine

open Sys2Proof

/-- The outcome of a command. -/
abbrev Out := Host.Outcome State Fault Refusal

/-! ### Time (R20, R23) -/

/-- The cycles from a start to an instant. -/
def elapsed (start now : Cycle) : Nat := (now - start).toNat

/-- The clock runs on to the instant `now` (R20), and the millisecond accumulator gains 1,000 for each
cycle (R23). A new F is in force from the next cycle on (R23). An instant that is not ahead of the
counter, in the sense of the 64-bit difference, leaves the clock where it is (notes/assumptions/1). -/
def State.advance (s : State) (now : Cycle) : State :=
  let d := elapsed s.tbu.cycle now
  if 0 < d ∧ d < 2 ^ 63 then
    { s with tbu := { s.tbu with cycle := now
                                 rateInForce := s.tbu.rate
                                 accumulator := s.tbu.accumulator + 1000 * d } }
  else s

/-- A timer that started at `start` has run for at least `n` cycles. -/
def State.ran (s : State) (start : Cycle) (n : Nat) : Bool := n ≤ elapsed start s.tbu.cycle

/-- An input level that has stood since `since` has held for at least `n` cycles, and has done so since the
last full reset, at which the counter was 0 (R3, R122, R134): a level that stands across a full reset counts
from it (notes/assumptions/40). -/
def State.levelHeld (s : State) (since : Cycle) (n : Nat) : Bool :=
  decide (since.toNat + n ≤ s.tbu.cycle.toNat)

/-- Taking an event: the clock runs on to its instant and the event has its effect. While the part is
held in full reset no event is taken and no cycle is counted (R200). -/
def event (now : Cycle) (s : State) (effect : State → State) : Out :=
  if s.power.held then .next s else .next (effect (s.advance now))

/-! ### Memory words written by the part -/

/-- The part stores consecutive words. -/
def State.put (s : State) (base : Nat) (ws : List Word) : State :=
  { s with mem := s.mem.writeWords base ws }

/-- The stop word (R135, R194). -/
def stopWord (l : StopLine) (demand : Bool) : Word :=
  pack [(0, 1, bit demand), (1, 1, bit (l.mode == .pulse)), (2, 1, bit l.stopOut),
        (3, 1, bit l.ackLevel), (4, 1, bit l.fault), (5, 1, bit l.owed),
        (8, 3, l.phase.code), (12, 2, l.attempt.getD 0)]

/-- The stray-ack count and the unlisted-stop count (R194). -/
def countsWord (l : StopLine) (b : Board) : Word :=
  pack [(0, 16, l.stray), (16, 16, b.unlistedStops)]

/-- The two words of the stop line in the site header are written at each change of what they show
(R135, R110). -/
def State.showStopLine (s : State) : State :=
  s.put (headerBase + 0x28) [stopWord s.sli s.ab.demand, countsWord s.sli s.ab]

/-- The words of the site mode, the configuration state and the latch count are written at each
change (R181). -/
def State.showSite (s : State) : State :=
  s.put (headerBase + 0x20)
    [pack [(0, 1, bit (s.site.mode == .watch)), (1, 1, bit s.site.latched)], s.site.latchCount]

/-- The stubs of the held queue (R141). -/
def Reports.stubs (r : Reports) : Nat := r.held.countP (fun h => h.buffer.isNone)

/-- The journal words of the site header that stand before the mode word (R154, R194). -/
def Reports.headerWords (r : Reports) : List Word :=
  [r.accepted, countWord r.position, countWord r.oldest, countWord r.unreleased,
   pack [(0, 8, r.held.length), (8, 8, r.stubs), (16, 1, bit r.highArmed)], countWord r.lost]

/-- The journal words of the site header are written at each change of what they show; the RELEASE word
is the host's and is left alone (R154). WRITE_SEQ is written last. -/
def State.showJournal (s : State) : State :=
  (s.put (headerBase + 0x08) s.rpw.headerWords).put headerBase [s.rpw.lastWritten]

/-! ### Train buffers (R27) -/

/-- A train buffer. -/
def State.buffer (s : State) (b : Fin 4) : Buffer := s.tt.buffers.get b

/-- A train buffer changed. -/
def State.alterBuffer (s : State) (b : Fin 4) (f : Buffer → Buffer) : State :=
  { s with tt := { s.tt with buffers := alter s.tt.buffers b f } }

/-- The lowest-numbered buffer in a state (R27). -/
def State.bufferIn (s : State) (st : BufferState) : Option (Fin 4) :=
  (List.finRange 4).find? (fun b => (s.buffer b).state == st)

/-- The buffer, OPEN or CLOSING, of the train of a number (R51, R99). -/
def State.bufferOf (s : State) (train : Word) : Option (Fin 4) :=
  (List.finRange 4).find? (fun b =>
    (s.buffer b).record.number == train &&
      ((s.buffer b).state == .opened || (s.buffer b).state == .closing))

/-- A train is OPEN, in a buffer or in the count-only record (R185). -/
def State.trainOpen (s : State) : Bool := (s.bufferIn .opened).isSome || s.tt.countOnly.isSome

/-- A train is OPEN or a buffer is CLOSING (R185, R187). -/
def State.trainsBusy (s : State) : Bool := s.trainOpen || (s.bufferIn .closing).isSome

/-- The record of the open train changed, in its buffer or in the count-only record (R29). -/
def State.alterOpen (s : State) (f : TrainRecord → TrainRecord) : State :=
  match s.bufferIn .opened with
  | some b => s.alterBuffer b (fun x => { x with record := f x.record })
  | none => { s with tt := { s.tt with
      countOnly := s.tt.countOnly.map (fun c => { c with record := f c.record }) } }

/-- The record of the open train, if a train is open. -/
def State.openRecord (s : State) : Option TrainRecord :=
  match s.bufferIn .opened with
  | some b => some (s.buffer b).record
  | none => s.tt.countOnly.map (·.record)

/-- An axle entry changed. -/
def Buffer.alterAxle (x : Buffer) (i : Nat) (f : AxleEntry → AxleEntry) : Buffer :=
  { x with axles := x.axles.modify i f }

/-- The SE still holds a request of the train, queued or in flight (R44). -/
def Settling.holds (e : Settling) (train : Word) : Bool :=
  e.queue.any (fun q => q.train == train) ||
    e.inFlight.any (fun f => f.request.train == train)

/-! ### Order completion (R162, R166) -/

/-- A slot's part-written words: the ticket word first, then the result words, and the state word last
(R162). -/
def State.showSlot (s : State) (n : Fin 16) : State :=
  let x := s.ou.slots.get n
  ((s.put (slotBase n + 0x04) [x.ticket]).put (slotBase n + 0x20) [x.result1, x.result2]).put
    (slotBase n + 0x08) [pack [(0, 3, x.state.code), (8, 8, x.outcome.code)]]

/-- A slot changed, with its words written (R162: the state word is written at each change of state). -/
def State.alterSlot (s : State) (n : Fin 16) (f : Slot → Slot) : State :=
  State.showSlot { s with ou := { s.ou with slots := alter s.ou.slots n f } } n

/-- A slot's order completes: its results are written, its state is DONE with the outcome, and ORDER
attention is raised (R166). -/
def State.finishSlot (s : State) (n : Fin 16) (o : OrderOutcome) (r1 r2 : Word) : State :=
  (s.alterSlot n (fun x => { x with state := .done, outcome := o, result1 := r1, result2 := r2 })).raise
    .order

/-- The running order completes (R166); no order is RUNNING from then on. -/
def State.finishRunning (s : State) (n : Fin 16) (o : OrderOutcome) (r1 r2 : Word) : State :=
  { s.finishSlot n o r1 r2 with ou := { (s.finishSlot n o r1 r2).ou with running := none } }

/-- The completion of the running order, if it is of kind `k` (R166); with no such order running there is
nothing to complete. -/
def State.completing (s : State) (k : OrderKind) (f : RunningOrder → State) : State :=
  match s.ou.running with
  | some o => if orderKindOf o.kind = some k then f o else s
  | none => s

end Sys2Proof.Machine
end

