-- ==== Sys2Proof/Machine/Layout.lean ====
section
/-!
DEFINITION. The layouts of the records the part writes (R195, R196, R198, R199): each as its words from
the start of the record.
-/

namespace Sys2Proof.Machine

open Sys2Proof

/-! ### Alarm board mirror (R118, R196) -/

/-- The creation number of a position: its rank from 1 in the creation order (R118). -/
def Board.creationNumber (b : Board) (p : Fin 32) : Nat := b.order.idxOf p + 1

/-- The body of a mirror record, without its VERSION word (R196). -/
def mirrorBody (r : AlarmRecord) (creation : Nat) : List Word :=
  [pack [(0, 16, r.id), (16, 3, r.state.code), (19, 2, r.level.code), (21, 1, bit r.deferred),
         (22, 1, bit r.deadline.isSome), (24, 3, r.decision.code), (27, 2, r.rail.code)],
   pack [(0, 8, r.kind.code), (8, 8, creation), (16, 10, r.axle)],
   r.train,
   pack [(0, 16, r.value), (16, 16, r.threshold)],
   lowWord r.raised, highWord r.raised,
   lowWord (r.deadline.getD 0), highWord (r.deadline.getD 0)] ++ List.replicate 7 0

/-- The whole mirror record of a position: the body and, last, VERSION; an empty position shows an
all-zero body (R118). -/
def Board.mirrorWords (b : Board) (p : Fin 32) : List Word :=
  (match b.positions.get p with
   | some r => mirrorBody r (b.creationNumber p)
   | none => List.replicate 15 0) ++ [b.versions.get p]

/-! ### Axle records (R139, R198) -/

/-- The 12-bit field of a rise slot (R198). -/
def riseField : RiseSlot → Nat
  | .empty => 4095
  | .valid v _ => v
  | .invalid r _ => r.code

/-- The run a rise slot shows; an empty slot shows run 0 (R198). -/
def riseRun : RiseSlot → Nat
  | .empty => 0
  | .valid _ n => n
  | .invalid _ n => n

/-- The rise slot at a place of an entry's temperature results; absent results read as empty
(R198). -/
def AxleEntry.rise (a : AxleEntry) (i : Fin 4) : RiseSlot :=
  match a.temps with
  | some t => t.slots.get i
  | none => .empty

/-- The words of an axle record (R198). Without a load result its limit, limit source and flags are written as 0, which
is the model's choice (notes/assumptions/42). -/
def axleWords (index : Nat) (a : AxleEntry) : List Word :=
  let onLoad (f : LoadResult → Nat) : Nat := (a.load.map f).getD 0
  [pack [(0, 10, index), (10, 3, a.state.code), (13, 1, bit a.run.broken),
         (14, 1, bit a.run.twoGate), (15, 1, bit a.consistLate), (16, 6, a.alarmBits.toNat),
         (22, 6, a.run.number), (28, 1, onLoad (fun l => bit (l.source == .consist)))],
   pack [(0, 17, a.speed.getD 0), (17, 6, onLoad (·.run)),
         (23, 6, (a.temps.map (·.recordRun)).getD 0), (29, 1, onLoad (fun l => bit l.twoGate))],
   pack [(0, 16, onLoad (·.railA.load.getD 0)), (16, 16, onLoad (·.railA.peak.getD 0))],
   pack [(0, 16, onLoad (·.railB.load.getD 0)), (16, 16, onLoad (·.railB.peak.getD 0))],
   pack [(0, 16, onLoad (·.limit)), (16, 4, onLoad (·.railA.validCribs)),
         (20, 4, onLoad (·.railB.validCribs)), (24, 1, onLoad (bit ·.railA.clipped)),
         (25, 1, onLoad (bit ·.railA.unresolved)), (26, 1, onLoad (bit ·.railB.clipped)),
         (27, 1, onLoad (bit ·.railB.unresolved)), (28, 1, onLoad (bit ·.outOfRange)),
         (29, 1, onLoad (bit ·.noSpeed)), (30, 1, onLoad (bit ·.creep)),
         (31, 1, onLoad (bit ·.disagreement))],
   pack [(0, 12, riseField (a.rise 0)), (12, 12, riseField (a.rise 1)),
         (24, 6, riseRun (a.rise 0))],
   pack [(0, 12, riseField (a.rise 2)), (12, 12, riseField (a.rise 3)),
         (24, 6, riseRun (a.rise 1))],
   pack [(0, 6, riseRun (a.rise 2)), (6, 6, riseRun (a.rise 3)), (12, 10, a.bogie),
         (22, 9, a.vehicle)]]

/-! ### Report records (R199) -/

/-- A word from four byte values, the less significant first. -/
def byteWord (b0 b1 b2 b3 : Nat) : Word :=
  pack [(0, 8, b0), (8, 8, b1), (16, 8, b2), (24, 8, b3)]

/-- The words of a vehicle record (R199). The tag bytes beyond the tag length are written as 0, which is the model's
choice (notes/assumptions/41). -/
def vehicleWords (v : Vehicle) (r : VehicleResult) : List Word :=
  let c (k : Nat) : Nat := ((v.tag[k]?).map (·.toNat)).getD 0
  [byteWord (c 0) (c 1) (c 2) (c 3), byteWord (c 4) (c 5) (c 6) (c 7),
   byteWord (c 8) (c 9) (c 10) (c 11),
   byteWord v.tag.length v.axles v.kind.code r.mapped,
   pack [(0, 16, v.limit), (16, 16, r.firstAxle.getD 0xFFFF)],
   countWord r.load,
   byteWord r.weighed r.alarmBits.toNat 0 0, 0]

/-- The words of an alarm entry (R199). The board outcome is there from the final copy on. -/
def alarmEntryWords (e : AlarmEntry) : List Word :=
  [pack [(0, 16, e.axle), (16, 8, e.rail.code), (24, 8, e.kind.code)],
   byteWord e.level.code ((e.outcome.map BoardOutcome.code).getD 0) (bit e.unboarded) 0,
   pack [(0, 16, e.value), (16, 16, e.threshold)],
   pack [(0, 16, e.id)]]

/-- The alarm entries of a report, two to a unit, a last odd half unit zero (R137). -/
def alarmUnits (es : List AlarmEntry) : List Word :=
  es.flatMap alarmEntryWords ++ (if es.length % 2 = 1 then List.replicate 4 0 else [])

/-- The close time less the open time as a signed 32-bit count, stopping at its bounds (R199). The two are subtracted as
unsigned numbers, so a train over which site time wraps shows the lower bound: the model's choice
(notes/assumptions/47). -/
def openSpan (openTime closeTime : SiteTime) : Int :=
  clampInt (-2147483647) 2147483647 ((closeTime.toNat : Int) - openTime.toNat)

/-- An ambient at opening as a 12-bit signed value; -2,048 means absent (R199). -/
def ambientField (a : Option Int) : Nat :=
  match a with
  | none => 2048
  | some v => (BitVec.ofInt 12 (clampInt (-2047) 2047 v)).toNat

/-- The flags and marks of bits 9 to 17 of the report header's word 5 (R199); the PEEK_TRAIN summary
shows them in the same bits (R195). -/
def flagFields (sensorFault untrimmed tableOverflow underrun phantom stagingOverflow
    countDisagreement substituted boardFull : Bool) : List (Nat × Nat × Nat) :=
  [(9, 1, bit sensorFault), (10, 1, bit untrimmed), (11, 1, bit tableOverflow),
   (12, 1, bit underrun), (13, 1, bit phantom), (14, 1, bit stagingOverflow),
   (15, 1, bit countDisagreement), (16, 1, bit substituted), (17, 1, bit boardFull)]

/-- The words of a report header (R199). -/
def headerWords (h : ReportHeader) (w : ReportWrite) (lost : Nat) : List Word :=
  [w.sequence, h.number, lowWord h.openTime, highWord h.openTime,
   signedWord (openSpan h.openTime h.closeTime),
   pack ([(0, 3, w.form.code), (3, 3, h.status.code), (6, 1, h.dir.code),
          (7, 1, bit h.consistPresent), (8, 1, bit h.mismatch), (18, 9, h.vehicleCount)] ++
         flagFields h.sensorFault h.untrimmed h.tableOverflow h.underrun h.phantom
           h.stagingOverflow h.countDisagreement h.substituted h.boardFull),
   pack [(0, 11, w.size), (11, 9, w.vehicles), (20, 11, w.axles)],
   pack [(0, 7, w.alarms), (7, 7, h.notes), (14, 7, h.warns), (21, 7, h.stops)],
   pack [(0, 16, h.unlisted), (16, 16, lost)],
   pack [(0, 16, h.netAxles), (16, 16, h.unweighed)],
   pack [(0, 16, h.revisits), (16, 16, h.skipped)],
   pack [(0, 17, h.speedMin.getD 0), (17, 11, h.entries)],
   pack [(0, 17, h.speedMax.getD 0), (17, 12, ambientField (h.ambients.get 0))],
   pack [(0, 17, h.speedMean.getD 0), (17, 12, ambientField (h.ambients.get 1))],
   countWord h.totalLoad,
   pack [(0, 12, ambientField (h.ambients.get 2)), (12, 12, ambientField (h.ambients.get 3))]]

/-- The units of a filler: the first shows its size and form code 4, every other word is zero
(R140, R199). -/
def fillerWords (units : Nat) : List Word :=
  [0, countWord units, 0, 0, 0, pack [(0, 3, Form.filler.code)], 0, 0] ++
    List.replicate (8 * (units - 1)) 0

/-! ### The PEEK_TRAIN summary block (R170, R195) -/

/-- A net count as a signed word, stopping at 2,147,483,647 either way (R193, R195; the manual gives a net no width,
notes/assumptions/35). -/
def netWord (n : Int) : Word := signedWord (clampInt (-2147483647) 2147483647 n)

/-- The words of the summary block: the record of the open train, its buffer if it has one, the vehicles
of its consist, and the two alarm counts with *board full*. -/
def summaryWords (r : TrainRecord) (buffer : Option (Fin 4)) (vehicles : Option Nat)
    (alarms unlisted : Nat) (boardFull : Bool) : List Word :=
  [r.number,
   pack [(0, 3, (buffer.map (·.val)).getD 4), (3, 1, r.dir.code), (4, 1, bit vehicles.isSome),
         (8, 4, r.staging.length), (16, 9, vehicles.getD 0)],
   lowWord r.openTime, highWord r.openTime,
   pack [(0, 16, r.entries), (16, 16, r.f)],
   pack [(0, 16, r.x), (16, 16, r.overflow)],
   pack [(0, 16, r.overflowExit), (16, 8, alarms)],
   netWord r.entryNet, netWord r.exitNet,
   pack [(0, 16, r.revisits), (16, 16, r.skipped)],
   pack (flagFields r.sensorFault r.untrimmed r.tableOverflow r.underrun r.phantom
     r.stagingOverflow r.countDisagreement r.substituted boardFull),
   countWord unlisted] ++ r.ambients.toList.map optSignedWord

end Sys2Proof.Machine
end

