-- ==== Sys2Proof/Machine/StopLine.lean ====
section
/-!
DEFINITION. The Stop Line Interface (chapter 7): LEVEL supervision, PULSE sequences, and the commands
ACK_EDGE, ACK_TIMEOUT, PULSE_TIMER_EXPIRY and LISTEN_TIMER_EXPIRY.
-/

namespace Sys2Proof.Machine

open Sys2Proof

/-- STOP_ACK is accepted when its level has held for 10,000 cycles (R122). -/
def ackFilter : Nat := 10000

/-- The stop line changed, with its words of the site header (R135). -/
def State.alterLine (s : State) (f : StopLine → StopLine) : State :=
  State.showStopLine { s with sli := f s.sli }

/-- An attempt starts in PULSING: STOP_OUT asserted, both timers started (R128). -/
def StopLine.startAttempt (l : StopLine) (k : Nat) (now : Cycle) : StopLine :=
  { l with phase := .pulsing, attempt := some k, stopOut := true
           pulseTimer := some now, listenTimer := some now }

/-- A sequence ends: IDLE, or SPACING before an owed sequence (R131). -/
def StopLine.endSequence (l : StopLine) (now : Cycle) : StopLine :=
  if l.owed then
    { l with phase := .spacing, attempt := none, stopOut := false, owed := false
             pulseTimer := some now, listenTimer := none }
  else
    { l with phase := .idle, attempt := none, stopOut := false
             pulseTimer := none, listenTimer := none }

/-- A commit event (R105): no effect in LEVEL mode (R124); in PULSE mode it starts a sequence or sets
the owed flag (R127). -/
def StopLine.commit (l : StopLine) (now : Cycle) : StopLine :=
  match l.mode, l.phase with
  | .level, _ => l
  | .pulse, .idle => l.startAttempt 1 now
  | .pulse, _ => { l with owed := true }

/-- A change of the stop demand: in LEVEL mode it drives STOP_OUT and restarts supervision (R124 to
R126); in PULSE mode it is copied alone (R127). -/
def StopLine.demandChange (l : StopLine) (demand : Bool) (now : Cycle) : StopLine :=
  match l.mode with
  | .pulse => { l with demand := demand }
  | .level =>
    let l := { l with demand := demand, stopOut := demand }
    if l.ackLevel = demand then { l with ackTimer := none, fault := false }
    else if l.fault then l
    else { l with ackTimer := some now }

/-- An ack edge in LEVEL mode (R125, R126). -/
def StopLine.levelEdge (l : StopLine) (level : Bool) (now : Cycle) : StopLine :=
  let l := { l with ackLevel := level }
  if level = l.demand then { l with ackTimer := none, fault := false }
  else if l.fault then l
  else { l with ackTimer := some (l.ackTimer.getD now) }

/-- An ack edge in PULSE mode (R129): a rising edge answers an attempt or is stray; a falling edge has no
effect. -/
def StopLine.pulseEdge (l : StopLine) (level : Bool) (now : Cycle) : StopLine :=
  let l := { l with ackLevel := level }
  if !level then l
  else match l.phase with
    | .pulsing => { l with fault := false, listenTimer := none, phase := .trailing, attempt := none }
    | .listening => { l with fault := false }.endSequence now
    | .idle | .spacing | .trailing => { l with stray := min 65535 (l.stray + 1) }

/-- A commit event is handed to the SLI (R105). -/
def State.commitEvent (s : State) : State := s.alterLine (·.commit s.tbu.cycle)

/-- The AB hands a change of the stop demand to the SLI at the event that causes it (R117). -/
def State.handDemand (s : State) : State :=
  if s.ab.demand = s.sli.demand then s
  else s.alterLine (·.demandChange s.ab.demand s.tbu.cycle)

/-- The LEVEL ack timer runs out: FAULT with STOP_FAULT attention (R125). -/
def State.ackRunsOut (s : State) : State :=
  (s.alterLine (fun l => { l with ackTimer := none, fault := true })).raise .stopFault

/-- The pulse timer runs out (R128, R131). -/
def State.pulseRunsOut (s : State) : State :=
  s.alterLine (fun l =>
    match l.phase with
    | .pulsing => { l with stopOut := false, pulseTimer := none, phase := .listening }
    | .trailing => l.endSequence s.tbu.cycle
    | .spacing => l.startAttempt 1 s.tbu.cycle
    | .idle | .listening => { l with pulseTimer := none })

/-- The listen timer of attempt k runs out (R128): the next attempt, or after the third FAULT with
STOP_FAULT attention. -/
def State.listenRunsOut (s : State) : State :=
  let k := s.sli.attempt.getD 0
  if k < 3 then s.alterLine (·.startAttempt (k + 1) s.tbu.cycle)
  else match s.sli.phase with
    | .pulsing =>
      (s.alterLine (fun l => { l with fault := true, phase := .trailing, attempt := none
                                      listenTimer := none })).raise .stopFault
    | _ => (s.alterLine (fun l => { l with fault := true }.endSequence s.tbu.cycle)).raise .stopFault

/-- The ack timer has run for ack_timeout (R123, R125). -/
def State.ackDue (s : State) : Bool :=
  s.sli.ackTimer.any (fun t => s.ran t (millisToCycles s.site.settings.ackTimeout))

/-- The pulse timer has run for pulse_width (R123, R128). -/
def State.pulseDue (s : State) : Bool :=
  s.sli.pulseTimer.any (fun t => s.ran t (millisToCycles s.site.settings.pulseWidth))

/-- The listen timer has run for ack_timeout (R123, R128). -/
def State.listenDue (s : State) : Bool :=
  s.sli.listenTimer.any (fun t => s.ran t (millisToCycles s.site.settings.ackTimeout))

/-- The change of mode at a latch (R133). -/
def StopLine.changeMode (l : StopLine) (mode : LineMode) (now : Cycle) : StopLine :=
  let l := { l with mode := mode, fault := false, owed := false, ackTimer := none
                    phase := .idle, attempt := none, pulseTimer := none, listenTimer := none }
  match mode with
  | .pulse => if l.demand then l.startAttempt 1 now else { l with stopOut := false }
  | .level =>
    { l with stopOut := l.demand
             ackTimer := if l.ackLevel = l.demand then none else some now }

/-- The timers that already reach the new values at a latch run out there (R123). -/
def State.lineTimersAtLatch (s : State) : State :=
  let s := if s.ackDue then s.ackRunsOut else s
  let s := if s.pulseDue then s.pulseRunsOut else s
  if s.listenDue then s.listenRunsOut else s

/-- The SLI takes the new configuration at a latch (R123, R133); the settings are already in force. -/
def State.lineAtLatch (s : State) : State :=
  if s.sli.mode = s.site.settings.lineMode then s.lineTimersAtLatch
  else s.alterLine (·.changeMode s.site.settings.lineMode s.tbu.cycle)

/-! ### Commands -/

/-- ACK_EDGE (R122): a STOP_ACK level that differs from the ack level and has held for 1 ms is accepted
and taken by LEVEL supervision (R125, R126) or by the PULSE phase (R129). -/
def execAckEdge (now : Cycle) (level : Bool) (since : Cycle) (s : State) : Out :=
  event now s fun s =>
    if level ≠ s.sli.ackLevel ∧ s.levelHeld since ackFilter then
      s.alterLine (fun l =>
        match l.mode with
        | .level => l.levelEdge level s.tbu.cycle
        | .pulse => l.pulseEdge level s.tbu.cycle)
    else s

/-- ACK_TIMEOUT (R125). -/
def execAckTimeout (now : Cycle) (s : State) : Out :=
  event now s fun s => if s.ackDue then s.ackRunsOut else s

/-- PULSE_TIMER_EXPIRY (R128). -/
def execPulseTimerExpiry (now : Cycle) (s : State) : Out :=
  event now s fun s => if s.pulseDue then s.pulseRunsOut else s

/-- LISTEN_TIMER_EXPIRY (R128). -/
def execListenTimerExpiry (now : Cycle) (s : State) : Out :=
  event now s fun s => if s.listenDue then s.listenRunsOut else s

end Sys2Proof.Machine
end

