-- ==== Sys2Proof/Machine/Board.lean ====
section
/-!
DEFINITION. The Alarm Board and the train alarm entry lists (chapter 6), and the commands HOLD_EXPIRY,
DECIDE_ALARM and CLEAR_STOP.
-/

namespace Sys2Proof.Machine

open Sys2Proof

/-! ### Records and the mirror -/

/-- The record carries the key: train number, axle index, rail and kind (chapter 6, introduction). -/
def AlarmRecord.hasKey (r : AlarmRecord) (train : Word) (axle : Nat) (rail : Rail)
    (kind : AlarmKind) : Bool :=
  r.train == train && r.axle == axle && r.rail == rail && r.kind == kind

/-- The position whose record carries the key, if one does (R105: at most one). -/
def Board.find (b : Board) (train : Word) (axle : Nat) (rail : Rail) (kind : AlarmKind) :
    Option (Fin 32) :=
  (List.finRange 32).find? (fun p => (b.positions.get p).any (·.hasKey train axle rail kind))

/-- The position whose record carries the id, if one does (R112, R115). -/
def Board.findId (b : Board) (id : Nat) : Option (Fin 32) :=
  (List.finRange 32).find? (fun p => (b.positions.get p).any (fun r => r.id == id))

/-- The ids on the board. -/
def Board.ids (b : Board) : List Nat := b.positions.toList.filterMap (fun r => r.map (·.id))

/-- The id after `n`: 65535 is followed by 1 (R106). -/
def succId (n : Nat) : Nat := if 65535 ≤ n then 1 else n + 1

/-- The first id from `n` on that no record carries, within the given number of tries (R106). -/
def freshId (used : List Nat) : Nat → Nat → Nat
  | 0, n => n
  | tries + 1, n => if n ∈ used then freshId used tries (succId n) else n

/-- A mirror record is written: the version increases by one, the body stands first and VERSION last
(R118). -/
def State.mirror (s : State) (p : Fin 32) : State :=
  let s := { s with ab := { s.ab with versions := alter s.ab.versions p succCount } }
  s.put (mirrorBase p) (s.ab.mirrorWords p)

/-- ALARM attention is due at a creation and at each change of state or level (R119). -/
def attends (old : Option AlarmRecord) (r : AlarmRecord) : Bool :=
  match old with
  | none => true
  | some o => o.state != r.state || o.level != r.level

/-- A record becomes COMMITTED (R105). -/
def commits (old : Option AlarmRecord) (r : AlarmRecord) : Bool :=
  r.state == .committed && !old.any (fun o => o.state == .committed)

/-- A record takes new contents at a position. Each change is written to the mirror (R118), raises ALARM
attention as R119 states, hands a commit event to the SLI when the record becomes COMMITTED (R105),
and hands on a change of the stop demand (R117). -/
def State.putRecord (s : State) (p : Fin 32) (r : AlarmRecord) : State :=
  let old := s.ab.positions.get p
  if old = some r then s
  else
    let s := State.mirror
      { s with ab := { s.ab with positions := s.ab.positions.set p.val (some r) p.isLt } } p
    let s := if attends old r then s.raise .alarm else s
    let s := if commits old r then s.commitEvent else s
    s.handDemand

/-- A record becomes COMMITTED, its deadline absent (R111, R121). -/
def AlarmRecord.committedNow (r : AlarmRecord) : AlarmRecord :=
  { r with state := .committed, deadline := none }

/-- A PENDING record expires (R111). -/
def State.expire (s : State) (p : Fin 32) : State :=
  match s.ab.positions.get p with
  | some r => if r.state = .pending then s.putRecord p r.committedNow else s
  | none => s

/-- The record at a position is PENDING and site time has reached or passed its deadline (R111). -/
def State.holdDue (s : State) (p : Fin 32) : Bool :=
  (s.ab.positions.get p).any (fun r =>
    r.state == .pending && r.deadline.any (fun d => d.toNat ≤ s.tbu.siteTime.toNat))

/-- Every record that is due expires, one event each (R111), in the order of their positions: the model's choice
(notes/assumptions/49). -/
def State.expireDue (s : State) : State :=
  (List.finRange 32).foldl (fun s p => if s.holdDue p then s.expire p else s) s

/-- Every PENDING record becomes COMMITTED at a site reset, each with its own commit event, mirror write
and attention (R121), in the order of their positions: the model's choice (notes/assumptions/49). -/
def State.commitPending (s : State) : State := (List.finRange 32).foldl State.expire s

/-! ### Alarms reaching the board -/

/-- A record enters its hold window: PENDING with its deadline, or COMMITTED at once under a hold window
of 0 (R107, R108). -/
def State.startWindow (s : State) (r : AlarmRecord) : AlarmRecord :=
  let w := s.site.settings.holdWindow
  if w = 0 then { r with state := .committed, deadline := none, deferred := false }
  else { r with state := .pending, deferred := false
                deadline := some (s.tbu.siteTime + BitVec.ofNat 64 w) }

/-- The record after an alarm of its key (R107). -/
def State.updatedRecord (s : State) (r : AlarmRecord) (a : Alarm) : AlarmRecord :=
  let r := { r with value := a.value }
  match a.level, r.state with
  | .stop, .informed =>
    s.startWindow { r with level := .stop, threshold := a.threshold, raised := s.tbu.siteTime }
  | .stop, .cleared =>
    s.startWindow { r with threshold := a.threshold, raised := s.tbu.siteTime, decision := .none }
  | _, _ => r

/-- The new record of an alarm (R108), with its id. -/
def State.newRecord (s : State) (a : Alarm) (id : Nat) : AlarmRecord :=
  let r : AlarmRecord :=
    { id := id, state := .informed, level := .warn, kind := a.kind, train := a.train, axle := a.axle
      rail := a.rail, value := a.value, threshold := a.threshold, raised := s.tbu.siteTime
      deadline := none, deferred := false, decision := .none }
  match a.level with
  | .stop => s.startWindow { r with level := .stop }
  | _ => r

/-- The lowest-numbered empty position (R108). -/
def Board.emptyPosition (b : Board) : Option (Fin 32) :=
  (List.finRange 32).find? (fun p => (b.positions.get p).isNone)

/-- The spent record that comes first in the creation order (R109). -/
def Board.firstSpent (b : Board) : Option (Fin 32) :=
  b.order.find? (fun p => (b.positions.get p).any (fun r => r.state.spent))

/-- A record is created at an empty position (R106, R108): it takes its id and comes last in the creation
order. -/
def State.createAt (s : State) (p : Fin 32) (a : Alarm) : State :=
  let id := freshId s.ab.ids 33 s.ab.nextId
  let r := s.newRecord a id
  State.putRecord { s with ab := { s.ab with nextId := succId id, order := s.ab.order ++ [p] } } p r

/-- A spent record is evicted and its position given at once to the new record (R109). The mirror of each
record whose creation number falls is written again, without attention (R118, R119). -/
def State.evictFor (s : State) (p : Fin 32) (a : Alarm) : State :=
  let behind := s.ab.order.drop (s.ab.order.idxOf p + 1)
  let s := State.createAt
    { s with ab := { s.ab with positions := s.ab.positions.set p.val none p.isLt
                               order := s.ab.order.erase p } } p a
  behind.foldl State.mirror s

/-- A STOP is refused by a full board: it is taken into the unlisted-stop count, with a commit event and
ALARM attention (R110). -/
def State.refuseStop (s : State) : State :=
  let s := State.showStopLine
    { s with ab := { s.ab with unlistedStops := min 65535 (s.ab.unlistedStops + 1) } }
  (s.raise .alarm).commitEvent.handDemand

/-- A WARN or STOP is placed on the board: an update, a creation, an eviction with a creation, or a
refusal (R107 to R110). The Bool says that the board refused it. -/
def State.placeOnBoard (s : State) (a : Alarm) : State × Bool :=
  match s.ab.find a.train a.axle a.rail a.kind with
  | some p =>
    match s.ab.positions.get p with
    | some r => (s.putRecord p (s.updatedRecord r a), false)
    | none => (s, false)
  | none =>
    match s.ab.emptyPosition with
    | some p => (s.createAt p a, false)
    | none =>
      match s.ab.firstSpent with
      | some p => (s.evictFor p a, false)
      | none => (if a.level = .stop then s.refuseStop else s, true)

/-! ### The train alarm entry list -/

/-- The id of the record the board holds for a key, or 0 (R100). -/
def Board.idFor (b : Board) (train : Word) (axle : Nat) (rail : Rail) (kind : AlarmKind) : Nat :=
  match b.find train axle rail kind with
  | some p => ((b.positions.get p).map (·.id)).getD 0
  | none => 0

/-- The entry carries the key of the alarm, less the train number (R100). -/
def AlarmEntry.matches (e : AlarmEntry) (a : Alarm) : Bool :=
  e.axle == a.axle && e.rail == a.rail && e.kind == a.kind

/-- An entry after a further alarm of its key (R101). -/
def AlarmEntry.updated (e : AlarmEntry) (a : Alarm) (id : Nat) (refused : Bool) : AlarmEntry :=
  let higher := e.level.code < a.level.code
  { e with value := a.value
           level := if higher then a.level else e.level
           threshold := if higher then a.threshold else e.threshold
           id := if refused then e.id else id
           unboarded := e.unboarded || refused }

/-- The entry an alarm creates (R100). -/
def Alarm.entry (a : Alarm) (id : Nat) (refused : Bool) : AlarmEntry :=
  { axle := a.axle, rail := a.rail, kind := a.kind, level := a.level, value := a.value
    threshold := a.threshold, id := id, unboarded := refused, outcome := none }

/-- A buffer's list after an alarm: an update, an entry at the end, or the unlisted-entry count (R100,
R101); a refusal sets *board full* (R110). -/
def Buffer.listAlarm (x : Buffer) (a : Alarm) (id : Nat) (refused : Bool) : Buffer :=
  let x := { x with boardFull := x.boardFull || refused }
  if x.alarms.any (·.matches a) then
    { x with alarms := x.alarms.map (fun e => if e.matches a then e.updated a id refused else e) }
  else if x.alarms.length < 64 then { x with alarms := x.alarms ++ [a.entry id refused] }
  else { x with unlistedEntries := x.unlistedEntries + 1 }

/-- An alarm handed to the AB: first the board if it is a WARN or a STOP, then the entry list of its
train's buffer, with what the board did with it (R99). -/
def State.raiseAlarm (s : State) (a : Alarm) : State :=
  let (s, refused) := if a.level = .note then (s, false) else s.placeOnBoard a
  let id := s.ab.idFor a.train a.axle a.rail a.kind
  match s.bufferOf a.train with
  | some b => s.alterBuffer b (·.listAlarm a id refused)
  | none => s

/-- The SE raises an alarm of an axle: the alarm goes to the AB, and the entry's bit of that kind is set
(R65, R78, R83). -/
def State.raiseForAxle (s : State) (a : Alarm) : State :=
  let s := s.raiseAlarm a
  match s.bufferOf a.train with
  | some b => s.alterBuffer b (·.alterAxle a.axle (fun e =>
      { e with alarmBits := e.alarmBits ||| a.kind.bit }))
  | none => s

/-- The board outcome of an entry of the train (R102). -/
def Board.outcomeOf (b : Board) (train : Word) (e : AlarmEntry) : BoardOutcome :=
  if e.level = .note then .none
  else match (b.find train e.axle e.rail e.kind).bind b.positions.get with
    | some r => match r.state with
      | .informed => .informed
      | .pending => .pending
      | .committed => .committed
      | .vetoed => .vetoed
      | .cleared => .cleared
    | none => if e.id = 0 then .unboarded else .evicted

/-! ### Decisions (R112, R115, R116) -/

/-- The milliseconds from site time to the deadline of a PENDING record, and 0 otherwise (R112); a count
beyond the word stops at its largest value (R193). -/
def State.windowLeft (s : State) (r : AlarmRecord) : Word :=
  if r.state = .pending then
    countWord ((r.deadline.map (fun d => d.toNat - s.tbu.siteTime.toNat)).getD 0)
  else 0

/-- The answer of DECIDE_ALARM for a record (R112): the record after the order, and the outcome. -/
def State.decisionOn (s : State) (r : AlarmRecord) (d : Decision) : AlarmRecord × OrderOutcome :=
  match d, r.state with
  | .veto, .pending => ({ r with state := .vetoed, deadline := none, decision := .veto }, .done)
  | .veto, .committed => (r, .tooLate)
  | .confirm, .pending =>
    ({ r with state := .committed, deadline := none, decision := .confirm }, .done)
  | .defer, .pending =>
    if r.deferred then (r, .alreadyDeferred)
    else ({ r with deadline := r.deadline.map (· + BitVec.ofNat 64 s.site.settings.holdWindow)
                   deferred := true, decision := .defer }, .done)
  | _, _ => (r, .notPending)

/-- The effect and answer of DECIDE_ALARM with its arguments (R112). -/
def State.decideAlarm (s : State) (o : RunningOrder) : State :=
  if o.arg1.toNat = 0 ∨ 65535 < o.arg1.toNat then s.finishRunning o.slot .badArgument 0 0
  else match decisionOf o.arg2 with
    | none => s.finishRunning o.slot .badArgument 0 0
    | some d =>
      match s.ab.findId o.arg1.toNat with
      | none => s.finishRunning o.slot .noSuchAlarm 0 0
      | some p =>
        match s.ab.positions.get p with
        | none => s.finishRunning o.slot .noSuchAlarm 0 0
        | some r =>
          let answer := s.decisionOn r d
          (s.putRecord p answer.1).finishRunning o.slot answer.2
            (countWord answer.1.state.code) (s.windowLeft answer.1)

/-- A COMMITTED record is cleared (R115, R116). -/
def State.clearAt (s : State) (p : Fin 32) : State :=
  match s.ab.positions.get p with
  | some r =>
    if r.state = .committed then s.putRecord p { r with state := .cleared, decision := .clear } else s
  | none => s

/-- The number of COMMITTED records (R116). -/
def Board.committedCount (b : Board) : Nat :=
  b.positions.toList.countP (fun r => r.any (fun r => r.state == .committed))

/-- CLEAR_STOP ALL: every COMMITTED record is cleared and the unlisted-stop count becomes 0 (R116). -/
def State.clearAll (s : State) : State :=
  let s := (List.finRange 32).foldl State.clearAt s
  State.handDemand (State.showStopLine { s with ab := { s.ab with unlistedStops := 0 } })

/-- The effect and answer of CLEAR_STOP with its argument (R115, R116). That result word 2 is 0 after one record has been
cleared is the model's choice (notes/assumptions/44). -/
def State.clearStop (s : State) (o : RunningOrder) : State :=
  if 65535 < o.arg1.toNat then s.finishRunning o.slot .badArgument 0 0
  else if o.arg1.toNat = 0 then
    s.clearAll.finishRunning o.slot .done (countWord s.ab.committedCount) (countWord s.ab.unlistedStops)
  else match s.ab.findId o.arg1.toNat with
    | none => s.finishRunning o.slot .noSuchAlarm 0 0
    | some p =>
      if (s.ab.positions.get p).any (fun r => r.state == .committed) then
        (s.clearAt p).finishRunning o.slot .done 1 0
      else s.finishRunning o.slot .notCommitted 0 0

/-! ### Commands -/

/-- HOLD_EXPIRY (R111). -/
def execHoldExpiry (now : Cycle) (position : Fin 32) (s : State) : Out :=
  event now s fun s => if s.holdDue position then s.expire position else s

/-- DECIDE_ALARM (R112), at the completion of the running order (R166). -/
def execDecideAlarm (now : Cycle) (s : State) : Out :=
  event now s fun s => s.completing .decideAlarm s.decideAlarm

/-- CLEAR_STOP (R115, R116), at the completion of the running order (R166). -/
def execClearStop (now : Cycle) (s : State) : Out :=
  event now s fun s => s.completing .clearStop s.clearStop

end Sys2Proof.Machine
end

