-- ==== Sys2Proof/Machine/Settlement.lean ====
section
/-!
DEFINITION. The Settlement Engine (chapter 3) and the temperature arithmetic of a settlement (chapter 4),
with the commands SETTLEMENT_TAKE, EXTRACTION and SETTLEMENT_COMPLETE.
-/

namespace Sys2Proof.Machine

open Sys2Proof

/-! ### The limit in force (R92) -/

/-- The consist total: the sum of the axle counts (R86). -/
def consistTotal (vs : List Vehicle) : Nat := (vs.map (·.axles)).sum

/-- The covering vehicle of an axle index, if the axle is covered (R92). -/
def covering : List Vehicle → Nat → Option Vehicle
  | [], _ => none
  | v :: vs, i => if i < v.axles then some v else covering vs (i - v.axles)

/-- The CU's answer for an axle under a consist (R92). -/
def limitUnder (c : Settings) (consist : Option (List Vehicle)) (axle : Nat) : Nat × LimitSource :=
  match consist.bind (fun vs => covering vs axle) with
  | some v => (if v.limit = 0 then c.defaultAxleLimit else v.limit, .consist)
  | none => (c.defaultAxleLimit, .default)

/-! ### Speed (R55, R56) -/

/-- The distance between two positions on the axis. -/
def distance (p q : Nat) : Nat := (p - q) + (q - p)

/-- The position of the entry gate of a direction (R26). -/
def Settings.entryGate (c : Settings) : Dir → Nat
  | .east => c.g1
  | .west => c.g3

/-- The position of the exit gate of a direction (R26). -/
def Settings.exitGate (c : Settings) : Dir → Nat
  | .east => c.g3
  | .west => c.g1

/-- d(G2): the distance of the reference gate from the entry gate (R55). -/
def Settings.refDistance (c : Settings) (d : Dir) : Nat := distance c.g2 (c.entryGate d)

/-- d(exit): the distance of the exit gate from the entry gate (R55). -/
def Settings.exitDistance (c : Settings) (d : Dir) : Nat := distance (c.exitGate d) (c.entryGate d)

/-- The speed of a segment of length `len` run in `dur` cycles at rate `rate` (R55). -/
def segmentSpeed (len : Nat) (dur : Int) (rate : Nat) : SegmentSpeed :=
  if dur ≤ 0 then .invalid
  else
    let v := ((len * rate : Nat) + dur / 2) / dur
    if v < 300 then .creep else if 100000 < v then .invalid else .valid v.toNat

/-- A segment with its start distance and time, its length and its duration (R55, R58). -/
structure Segment where
  start : Nat
  time : Int
  length : Nat
  duration : Int
  speed : SegmentSpeed
  deriving DecidableEq, Repr

/-- A run's segment between two gate times (R55). -/
def segmentOf (start length rate : Nat) (from_ until_ : Cycle) : Segment :=
  let dur := (until_ - from_).toInt
  { start := start, time := from_.toNat, length := length, duration := dur
    speed := segmentSpeed length dur rate }

/-- Segment A: from the entry gate to G2, absent when T1 is absent (R55). -/
def segmentA (c : Settings) (q : Request) (rate : Nat) : Option Segment :=
  q.t1.map (fun t1 => segmentOf 0 (c.refDistance q.dir) rate t1 q.t2)

/-- Segment B: from G2 to the exit gate (R55). -/
def segmentB (c : Settings) (q : Request) (rate : Nat) : Segment :=
  segmentOf (c.refDistance q.dir) (c.exitDistance q.dir - c.refDistance q.dir) rate q.t2 q.t3

/-- The speed of a segment that may be absent. -/
def optSpeed (s : Option Segment) : SegmentSpeed := (s.map (·.speed)).getD .absent

/-- The axle speed from the segment speeds (R56); absent when it is invalid. -/
def axleSpeed : SegmentSpeed → SegmentSpeed → Option Nat
  | .valid a, .valid b => some ((a + b + 1) / 2)
  | .valid a, _ => some a
  | _, .valid b => some b
  | _, _ => none

/-- *speed disagreement* (R56). -/
def speedsDisagree : SegmentSpeed → SegmentSpeed → Bool
  | .valid a, .valid b => max a b < 8 * distance a b
  | _, _ => false

/-! ### Windows (R57 to R59, R72, R73) -/

/-- A segment is valid. -/
def Segment.isValid (s : Segment) : Bool :=
  match s.speed with
  | .valid _ => true
  | _ => false

/-- The timing segment of a place at distance `d`: its own segment when valid, otherwise the other
(R57). -/
def timingSegment (c : Settings) (dir : Dir) (a : Option Segment) (b : Segment) (d : Nat) : Segment :=
  match a with
  | none => b
  | some a =>
    if d < c.refDistance dir then (if a.isValid then a else b) else (if b.isValid then b else a)

/-- The time at which the wheel stood at distance `d`, by its timing segment, the quotient a floor
(R58). -/
def placeTime (g : Segment) (d : Nat) : Int :=
  g.time + (((d : Int) - g.start) * g.duration + (g.length / 2 : Nat)) / (g.length : Int)

/-- The half window of a crib: floor(W dt / (2 dd)) (R58). -/
def cribHalf (c : Settings) (g : Segment) : Int := (c.cribWindow * g.duration) / (2 * g.length : Nat)

/-- The index range of a window of half width `h` around `t`, in steps of `step` cycles (R59, R73). -/
def windowAt (t h : Int) (step : Nat) : Window := ⟨(t - h) / step, (t + h) / step⟩

/-- The crib window of a strain channel by name (R57 to R59). -/
def cribWindow (c : Settings) (dir : Dir) (a : Option Segment) (b : Segment) (name : Fin 16) : Window :=
  let d := distance (c.cribs.get name) (c.entryGate dir)
  let g := timingSegment c dir a b d
  windowAt (placeTime g d) (cribHalf c g) c.cyclesPerPoint

/-- The half window of a scanner: floor(Ws F / (2 v)) (R73). -/
def scanHalf (c : Settings) (rate v : Nat) : Nat := c.scanWindow * rate / (2 * v)

/-- The slot range of a scanner by name (R72, R73). -/
def scanWindow (c : Settings) (dir : Dir) (a : Option Segment) (b : Segment) (rate v : Nat)
    (name : Fin 4) : Window :=
  let d := distance (c.scanners.get name) (c.entryGate dir)
  windowAt (placeTime (timingSegment c dir a b d) d) (scanHalf c rate v) 10000

/-- The number of points or slots of a window. -/
def Window.count (w : Window) : Int := w.hi - w.lo + 1

/-! ### The take (R49) -/

/-- The settlement of a request as it stands at the take, with every input fixed (R49). -/
def State.settlementOf (s : State) (q : Request) : Settlement :=
  let c := s.site.settings
  let rate := s.tbu.rate
  let a := segmentA c q rate
  let b := segmentB c q rate
  let consist := (s.bufferOf q.train).bind (fun i => (s.buffer i).consist)
  let limit := limitUnder c consist q.axle
  let speed := axleSpeed (optSpeed a) b.speed
  { request := q, rate := rate
    strainInService := tabulate 16 (fun n => (s.strain n).service == .inService)
    scannerInService := tabulate 4 (fun n => (s.scanner n).service == .inService)
    settings := c, limit := limit.1, source := limit.2
    segmentA := optSpeed a, segmentB := b.speed
    cribWindows :=
      if speed.isSome then (List.finRange 16).map (cribWindow c q.dir a b) else []
    scanWindows :=
      match speed with
      | some v => (List.finRange 4).map (scanWindow c q.dir a b rate v)
      | none => []
    extracted := none }

/-- An entry still on the requested run and PASSED becomes SETTLING at the take (R49). -/
def AxleEntry.taken (e : AxleEntry) (run : Nat) : AxleEntry :=
  if e.run.number = run ∧ e.state = .passed then { e with state := .settling } else e

/-- An entry of the axle table of a train's buffer changed. -/
def State.alterEntry (s : State) (train : Word) (axle : Nat) (f : AxleEntry → AxleEntry) : State :=
  match s.bufferOf train with
  | some b => s.alterBuffer b (·.alterAxle axle f)
  | none => s

/-- The SE takes a request (R49). -/
def State.take (s : State) (q : Request) : State :=
  let f := s.settlementOf q
  let s := s.alterEntry q.train q.axle (·.taken q.run)
  { s with se := { s.se with inFlight := some f } }

/-- The SE takes the oldest request of the queue (R49). -/
def State.takeNext (s : State) : State :=
  match s.se.queue with
  | [] => s
  | q :: rest => State.take { s with se := { s.se with queue := rest } } q

/-- A request reaches the SE (R48): taken at once, queued, or the axle SKIPPED. -/
def State.request (s : State) (q : Request) : State :=
  if s.se.inFlight.isNone ∧ s.se.queue = [] then s.take q
  else if s.se.queue.length < 8 then { s with se := { s.se with queue := s.se.queue ++ [q] } }
  else match s.bufferOf q.train with
    | some b => s.alterBuffer b (fun x =>
        { x.alterAxle q.axle (fun e => { e with state := .skipped }) with
          record := { x.record with skipped := x.record.skipped + 1 } })
    | none => s

/-! ### Extraction (R50, R59, R74) -/

/-- The index of the oldest point held; above every complete index while nothing is held (R10). -/
def StrainChannel.oldest (c : StrainChannel) : Nat := c.next - c.history.length

/-- The points of an index range that the history holds whole (R10). -/
def StrainChannel.read (c : StrainChannel) (w : Window) : List Point :=
  (c.history.drop ((c.next : Int) - 1 - w.hi).toNat).take w.count.toNat

/-- Every window can be read whole: its last point or slot is complete (R50, R74). -/
def State.windowsComplete (s : State) (f : Settlement) : Bool :=
  f.cribWindows.zipIdx.all (fun (w, i) =>
    w.hi < (s.sau.channels.get (strainInput f.settings.railSwap (Fin.ofNat 16 i))).next) &&
    f.scanWindows.all (fun w => w.hi < s.tsu.nextSlot)

/-- What extraction reads of one crib window: invalid when the channel was out of service at the take,
the window is short, it overlaps the last-end mark, or it has aged out (R59). -/
def readCrib (c : StrainChannel) (inService : Bool) (mark : Option Int) (w : Window) : CribRead :=
  let valid := inService && 3 ≤ w.count && mark.all (fun e => e < w.lo) &&
    c.oldest ≤ w.lo && c.integerBaseline.isSome
  { valid := valid, points := if valid then c.read w else []
    baseline := c.integerBaseline.getD 0 }

/-- What extraction reads of one scanner window (R74). -/
def readScan (c : Scanner) (nextSlot : Nat) (w : Window) : ScanRead :=
  let aged : Bool := w.lo < ((nextSlot - c.history.length : Nat) : Int)
  { aged := aged
    slots := if aged then []
      else (c.history.drop ((nextSlot : Int) - 1 - w.hi).toNat).take w.count.toNat
    ambient := c.integerAmbient }

/-- The last-end mark after a window: the greater of its value and the window's last point (R59). -/
def markAfter (mark : Option Int) (w : Window) : Option Int :=
  some (match mark with | some e => max e w.hi | none => w.hi)

/-- Extraction: every window is read, with the baselines and ambients, and the last-end marks are
updated after every crib has been checked (R50, R59, R74). -/
def State.extract (s : State) (f : Settlement) : State :=
  let swap := f.settings.railSwap
  let cribs := f.cribWindows.zipIdx.map (fun (w, i) =>
    let name := Fin.ofNat 16 i
    readCrib (s.sau.channels.get (strainInput swap name)) (f.strainInService.get name)
      (s.se.lastEnd.get (strainInput swap name)) w)
  let scans := f.scanWindows.zipIdx.map (fun (w, i) =>
    readScan (s.tsu.scanners.get (scannerLink swap (Fin.ofNat 4 i))) s.tsu.nextSlot w)
  let marks := f.cribWindows.zipIdx.foldl (fun v (w, i) =>
    alter v (strainInput swap (Fin.ofNat 16 i)) (fun m => markAfter m w)) s.se.lastEnd
  { s with se := { s.se with
      inFlight := some { f with extracted := some ⟨s.tbu.cycle, cribs, scans⟩ }
      lastEnd := marks } }

/-! ### Loads (R60 to R64) -/

/-- A valid crib's load and whether it is clipped (R60, R61). -/
structure CribLoad where
  load : Nat
  clipped : Bool
  deriving DecidableEq, Repr

/-- The largest of a list of values, if there is one. -/
def greatest : List Int → Option Int
  | [] => none
  | x :: xs => match greatest xs with
    | none => some x
    | some y => some (max x y)

/-- The crib load of a peak under a gain (R60). -/
def cribLoadOf (peak : Int) (gain : Nat) : Nat :=
  if peak ≤ 0 then 0 else min 65535 ((peak.toNat * gain + 32768) / 65536)

/-- The crib load of a valid crib: its peak is the largest point less the baseline (R60). -/
def CribRead.load (r : CribRead) (gain : Nat) : Option CribLoad :=
  if r.valid then
    (greatest (r.points.map (fun p => p.value - r.baseline))).map (fun m =>
      ⟨cribLoadOf m gain, r.points.any (·.clip)⟩)
  else none

/-- A number put in its place in an ascending list. -/
def insertSorted (x : Nat) : List Nat → List Nat
  | [] => [x]
  | y :: ys => if x ≤ y then x :: y :: ys else y :: insertSorted x ys

/-- A list in ascending order. -/
def sortAscending : List Nat → List Nat
  | [] => []
  | x :: xs => insertSorted x (sortAscending xs)

/-- The wheel load of a rail's valid crib loads: the rounded mean of what is kept after one smallest and
one largest are removed; invalid below five (R62). -/
def wheelLoad (loads : List Nat) : Option Nat :=
  if loads.length < 5 then none
  else
    let kept := ((sortAscending loads).drop 1).dropLast
    some ((kept.sum + kept.length / 2) / kept.length)

/-- The largest crib load, invalid when there is none (R63). -/
def peakLoad : List Nat → Option Nat
  | [] => none
  | x :: xs => some (match peakLoad xs with | none => x | some y => max x y)

/-- The impact ratio (R63). -/
def impactRatio (peak load : Nat) : Nat := if load = 0 then 0 else min 65535 (peak * 256 / load)

/-- A rail's loads from its valid cribs (R62, R63); whether it is *unresolved* is judged later (R67). -/
def railLoad (v : List CribLoad) : RailLoad :=
  let loads := v.map (·.load)
  let l := wheelLoad loads
  let p := peakLoad loads
  { load := l, peak := p
    dynamic := l.bind (fun l => p.map (fun p => p - l))
    ratio := l.bind (fun l => p.map (fun p => impactRatio p l))
    validCribs := v.length
    tooFew := l.isNone
    clipped := v.any (fun c => some c.load == p && c.clipped)
    unresolved := false
    noLoad := l == some 0 }

/-- The axle load: the saturated sum of the wheel loads, valid when both are (R64). -/
def axleLoadOf (a b : RailLoad) : Option Nat :=
  a.load.bind (fun x => b.load.map (fun y => min 65535 (x + y)))

/-- *out of range*: the axle speed lies outside the weighing range (R64). -/
def outOfRange (c : Settings) (speed : Option Nat) : Bool :=
  speed.any (fun v => v < c.vLoadMin || c.vLoadMax < v)

/-! ### Judging (R65 to R69, R77) -/

/-- A level reached, with the value and the threshold the alarm carries. -/
structure Verdict where
  level : Level
  value : Nat
  threshold : Nat
  deriving DecidableEq, Repr

/-- Whether a rail is judged for WHEEL_FLAT (R66). -/
def flatJudged (c : Settings) (speed : Option Nat) (outside : Bool) (r : RailLoad) : Bool :=
  speed.any (fun v => c.vFlatMin ≤ v) && !outside && r.load.any (fun l => 0 < l)

/-- The WHEEL_FLAT level of a judged rail (R66). -/
def flatVerdict (c : Settings) (r : RailLoad) : Option Verdict :=
  match r.load, r.dynamic, r.ratio with
  | some l, some d, some q =>
    if c.dStop ≤ d then some ⟨.stop, d, c.dStop⟩
    else if c.qStop ≤ q ∧ c.lMin ≤ l then some ⟨.stop, q, c.qStop⟩
    else if c.dWarn ≤ d then some ⟨.warn, d, c.dWarn⟩
    else none
  | _, _, _ => none

/-- The WHEEL_FLAT judgement of a rail that may not be judged at all (R66). -/
def judgeFlat (c : Settings) (speed : Option Nat) (outside : Bool) (r : RailLoad) : Option Verdict :=
  if flatJudged c speed outside r then flatVerdict c r else none

/-- A judged clipped rail that reaches no level is *unresolved* (R67). -/
def RailLoad.resolved (r : RailLoad) (c : Settings) (speed : Option Nat) (outside : Bool) : RailLoad :=
  { r with unresolved := flatJudged c speed outside r && r.clipped && (flatVerdict c r).isNone }

/-- The OVERLOAD judgement (R68). -/
def judgeOverload (c : Settings) (outside : Bool) (axleLoad : Option Nat) (limit : Nat) :
    Option Verdict :=
  match axleLoad with
  | none => none
  | some w =>
    if outside then none
    else if limit + c.overloadExcess ≤ w then some ⟨.stop, w, limit + c.overloadExcess⟩
    else if limit ≤ w then some ⟨.warn, w, limit⟩
    else none

/-- The IMBALANCE judgement (R69). -/
def judgeImbalance (c : Settings) (outside : Bool) (a b : RailLoad) : Option Verdict :=
  match a.load, b.load, axleLoadOf a b with
  | some x, some y, some w =>
    if outside ∨ w = 0 then none
    else if c.imbPct * w ≤ distance x y * 100 then some ⟨.note, distance x y * 100 / w, c.imbPct⟩
    else none
  | _, _, _ => none

/-- The judgement of a rise against its kind's thresholds (R77). -/
def judgeRise (warn stop : Nat) : Rise → Option Verdict
  | .invalid _ => none
  | .valid r =>
    if stop ≤ r then some ⟨.stop, r, stop⟩
    else if warn ≤ r then some ⟨.warn, r, warn⟩
    else none

/-- The alarm of a verdict, for an axle of a train. -/
def Verdict.alarm (v : Verdict) (q : Request) (kind : AlarmKind) (rail : Rail) : Alarm :=
  { kind := kind, level := v.level, train := q.train, axle := q.axle, rail := rail
    value := v.value, threshold := v.threshold }

/-! ### Rises (R75, R76) -/

/-- The samples of a window, gaps left out (R75). -/
def samplesOf (slots : List (Option Sample)) : List Int := slots.filterMap (fun x => x.map (·.toInt))

/-- The rise: the hottest sample less the ambient, clamped to 0 to 3000 (R75). -/
def riseValue (samples : List Int) (ambient : Int) : Nat :=
  (clampInt 0 3000 ((greatest samples).getD ambient - ambient)).toNat

/-- A scanner's rise for a run, or the first reason of R76 that fails. -/
def riseOf (c : Settings) (speed : Option Nat) (inService : Bool) (x : Option ScanRead) : Rise :=
  match speed, x with
  | some v, some x =>
    if v < c.vScanMin ∨ c.vScanMax < v then .invalid .speed
    else if !inService then .invalid .service
    else match x.ambient with
      | none => .invalid .ambient
      | some a =>
        if x.aged then .invalid .aged
        else if (samplesOf x.slots).length < 3 then .invalid .samples
        else .valid (riseValue (samplesOf x.slots) a)
  | _, _ => .invalid .noSpeed

/-! ### The result of a settlement -/

/-- What a settlement computes from its take and its extraction: the axle speed, the load result, the
four rises, and the alarms in the order of R65 and R78. -/
structure SettleResult where
  speed : Option Nat
  load : LoadResult
  rises : Vector Rise 4
  alarms : List Alarm
  deriving DecidableEq, Repr

/-- The valid crib loads of eight channels from the channel of index `first` on (R62). -/
def railCribs (c : Settings) (x : Extracted) (first : Nat) : List CribLoad :=
  ((x.cribs.zipIdx).filterMap (fun (r, i) =>
    if first ≤ i ∧ i < first + 8 then r.load (c.gains.get (Fin.ofNat 16 i)) else none))

/-- Everything a settlement computes (R60 to R70, R75 to R78). -/
def Settlement.result (f : Settlement) (x : Extracted) : SettleResult :=
  let c := f.settings
  let q := f.request
  let speed := axleSpeed f.segmentA f.segmentB
  let outside := outOfRange c speed
  let a := (railLoad (railCribs c x 0)).resolved c speed outside
  let b := (railLoad (railCribs c x 8)).resolved c speed outside
  let axleLoad := axleLoadOf a b
  let rises := tabulate 4 (fun i => riseOf c speed (f.scannerInService.get i) x.scans[i.val]?)
  let alarm (v : Option Verdict) (k : AlarmKind) (r : Rail) : List Alarm :=
    (v.map (fun v => v.alarm q k r)).toList
  { speed := speed
    load :=
      { railA := a, railB := b, axleLoad := axleLoad, outOfRange := outside
        noSpeed := speed.isNone, creep := f.segmentA == .creep || f.segmentB == .creep
        disagreement := speedsDisagree f.segmentA f.segmentB, twoGate := q.twoGate
        run := q.run, limit := f.limit, source := f.source }
    rises := rises
    alarms :=
      alarm (judgeFlat c speed outside a) .wheelFlat .a ++
      alarm (judgeFlat c speed outside b) .wheelFlat .b ++
      alarm (judgeOverload c outside axleLoad f.limit) .overload .none ++
      alarm (judgeImbalance c outside a b) .imbalance .none ++
      alarm (judgeRise c.hotWarn c.hotStop (rises.get 0)) .hotBearing .a ++
      alarm (judgeRise c.hotWarn c.hotStop (rises.get 1)) .hotBearing .b ++
      alarm (judgeRise c.wheelWarn c.wheelStop (rises.get 2)) .hotWheel .a ++
      alarm (judgeRise c.wheelWarn c.wheelStop (rises.get 3)) .hotWheel .b }

/-! ### Completion (R51, R71, R80) -/

/-- A load result is valid when it shows the axle weighed (R64, R70). -/
def LoadResult.weighed (l : LoadResult) : Bool := l.axleLoad.isSome && !l.outOfRange

/-- A rise slot after a completion (R80). -/
def RiseSlot.after (s : RiseSlot) (r : Rise) (run : Nat) : RiseSlot :=
  match r, s with
  | .valid v, _ => .valid v run
  | .invalid _, .valid v n => .valid v n
  | .invalid k, _ => .invalid k run

/-- An entry's temperature results after a completion (R80). -/
def tempsAfter (t : Option TempResults) (rises : Vector Rise 4) (run : Nat) : TempResults :=
  let old := (t.map (·.slots)).getD (Vector.replicate 4 .empty)
  { slots := tabulate 4 (fun i => (old.get i).after (rises.get i) run), recordRun := run }

/-- An entry after the completion of a settlement of one of its runs: the speed, the load result if R71
lets it be stored, the temperature results, and the state of R51. The alarm bits are set as the alarms
are raised (R65). -/
def AxleEntry.settle (e : AxleEntry) (run : Nat) (r : SettleResult) : AxleEntry :=
  { e with
    speed := r.speed
    load := if e.load.any (·.weighed) then e.load else some r.load
    temps := some (tempsAfter e.temps r.rises run)
    state :=
      if e.run.number = run ∧ (e.state = .settling ∨ e.state = .passed) then .settled else e.state }

/-- A settlement completes with its result (R51): the writes, the alarms in order (R65, R78), the last
speed to the live view, and no settlement in flight from then on. -/
def State.complete (s : State) (f : Settlement) (r : SettleResult) : State :=
  let q := f.request
  let s := s.alterEntry q.train q.axle (·.settle q.run r)
  let s := r.alarms.foldl State.raiseForAxle s
  { s with se := { s.se with inFlight := none }, lvu := { s.lvu with lastSpeed := r.speed } }

/-! ### Site reset (R54) -/

/-- An entry SETTLING for an abandoned settlement returns to PASSED (R54). -/
def AxleEntry.abandoned (e : AxleEntry) : AxleEntry :=
  if e.state = .settling then { e with state := .passed } else e

/-- A site reset abandons the queue and the settlement in flight; the last-end marks are kept (R54). -/
def State.abandonSettlements (s : State) : State :=
  let s := match s.se.inFlight with
    | some f => s.alterEntry f.request.train f.request.axle (·.abandoned)
    | none => s
  { s with se := { s.se with queue := [], inFlight := none } }

/-! ### Commands -/

/-- SETTLEMENT_TAKE (R49). -/
def execSettlementTake (now : Cycle) (s : State) : Out :=
  event now s fun s => if s.se.inFlight.isNone then s.takeNext else s

/-- EXTRACTION (R50). -/
def execExtraction (now : Cycle) (s : State) : Out :=
  event now s fun s =>
    match s.se.inFlight with
    | some f => if f.extracted.isNone ∧ s.windowsComplete f then s.extract f else s
    | none => s

/-- SETTLEMENT_COMPLETE (R51). -/
def execSettlementComplete (now : Cycle) (s : State) : Out :=
  event now s fun s =>
    match s.se.inFlight with
    | some f =>
      match f.extracted with
      | some x => s.complete f (f.result x)
      | none => s
    | none => s

end Sys2Proof.Machine
end

