-- ==== Sys2Proof/Machine/Reports.lean ====
section
/-!
DEFINITION. The Report Writer (chapter 8): the held queue, the journal, release and the marks, with the
commands REPORT_WRITE_START, REPORT_WRITE_COMPLETE and RELEASE_WRITE.
-/

namespace Sys2Proof.Machine

open Sys2Proof

/-- The units of the journal (chapter 8, introduction). -/
def journalUnits : Nat := 5120

/-- The room of the journal (R136). -/
def Reports.room (r : Reports) : Nat := journalUnits - r.unreleased

/-- The Report Writer changed, with its words of the site header (R154). -/
def State.alterReports (s : State) (f : Reports → Reports) : State :=
  State.showJournal { s with rpw := f s.rpw }

/-! ### Headers and sizes (R138, R140) -/

/-- The valid speeds of the entries (R138). -/
def speedsOf (axles : List AxleEntry) : List Nat := axles.filterMap (·.speed)

/-- The least of a list of numbers, if there is one. -/
def least : List Nat → Option Nat
  | [] => none
  | x :: xs => some (match least xs with | none => x | some y => min x y)

/-- The mean rounded half up, if there is one (R138). -/
def meanOf (xs : List Nat) : Option Nat :=
  if xs.length = 0 then none else some ((xs.sum + xs.length / 2) / xs.length)

/-- The entry is weighed: its stored load result is valid (R138). -/
def AxleEntry.weighed (e : AxleEntry) : Bool := e.load.any (·.weighed)

/-- The axle load of a weighed entry, and 0 otherwise (R96, R138). -/
def AxleEntry.weighedLoad (e : AxleEntry) : Nat :=
  match e.load with
  | some l => if l.weighed then l.axleLoad.getD 0 else 0
  | none => 0

/-- The header of a train's record, from its axles, its alarm entries and its consist (R138). A count-only
train has no axles and no alarm entries. -/
def headerOf (r : TrainRecord) (axles : List AxleEntry) (alarms : List AlarmEntry)
    (unlisted : Nat) (boardFull : Bool) (vehicles : Option Nat) (mismatch : Bool) : ReportHeader :=
  let speeds := speedsOf axles
  let at_ (l : Level) : Nat := alarms.countP (fun e => e.level == l)
  { number := r.number, dir := r.dir, status := r.status.getD .cleared
    openTime := r.openTime, closeTime := r.closeTime.getD r.openTime
    netAxles := r.f + r.overflow, entries := r.entries, revisits := r.revisits, skipped := r.skipped
    speedMin := least speeds, speedMax := peakLoad speeds, speedMean := meanOf speeds
    totalLoad := (axles.map AxleEntry.weighedLoad).sum
    unweighed := r.entries - axles.countP (·.weighed) + r.overflow
    notes := at_ .note, warns := at_ .warn, stops := at_ .stop
    unlisted := unlisted
    consistPresent := vehicles.isSome, vehicleCount := vehicles.getD 0, mismatch := mismatch
    sensorFault := r.sensorFault, untrimmed := r.untrimmed, tableOverflow := r.tableOverflow
    underrun := r.underrun, phantom := r.phantom, stagingOverflow := r.stagingOverflow
    countDisagreement := r.countDisagreement, substituted := r.substituted
    boardFull := boardFull, ambients := r.ambients }

/-- The vehicles of a buffer's consist, 0 when none is held (R140). -/
def Buffer.vehicleCount (x : Buffer) : Nat := (x.consist.map (·.length)).getD 0

/-- The alarm entries' units (R140). -/
def alarmUnitCount (e : Nat) : Nat := (e + 1) / 2

/-- The axle entries with at least one alarm bit set (R140). -/
def alarmedAxles (axles : List AxleEntry) : Nat := axles.countP (fun a => a.alarmBits != 0)

/-- The size of the FULL form (R140). -/
def Buffer.fullSize (x : Buffer) : Nat :=
  2 + x.vehicleCount + x.axles.length + alarmUnitCount x.alarms.length

/-- The size of the SUMMARY form (R140). -/
def Buffer.summarySize (x : Buffer) : Nat :=
  2 + x.vehicleCount + alarmedAxles x.axles + alarmUnitCount x.alarms.length

/-- The buffered report of a buffer, with the fields fixed at the join (R138, R142). -/
def Buffer.report (x : Buffer) (b : Fin 4) : HeldReport :=
  { buffer := some b
    header := headerOf x.record x.axles x.alarms x.unlistedEntries x.boardFull
      (x.consist.map (·.length)) x.mismatch
    fullSize := x.fullSize, summarySize := x.summarySize }

/-- The stub of a count-only record (R138, R143). -/
def CountOnly.report (c : CountOnly) : HeldReport :=
  { buffer := none, header := headerOf c.record [] [] 0 false c.vehicles false
    fullSize := 2, summarySize := 2 }

/-! ### The held queue (R141 to R143) -/

/-- A report placed in the held queue by train number: after every lower one and before every higher one
(R141). Beside a report exactly 2^31 away, of which neither is lower, it joins behind: the model's choice
(notes/assumptions/48). -/
def joinHeld (h : HeldReport) : List HeldReport → List HeldReport
  | [] => [h]
  | x :: xs =>
    if below h.header.number x.header.number then h :: x :: xs else x :: joinHeld h xs

/-- A buffered report joins the held queue and its buffer becomes HELD, at one event (R142). -/
def State.joinBuffer (s : State) (b : Fin 4) : State :=
  let h := (s.buffer b).report b
  State.alterReports (s.alterBuffer b (fun x => { x with state := .held }))
    (fun r => { r with held := joinHeld h r.held })

/-- The stub of a count-only train joins the held queue, or is lost when the queue holds 8 stubs
(R143). -/
def State.joinStub (s : State) (c : CountOnly) : State :=
  s.alterReports (fun r =>
    if r.stubs < 8 then { r with held := joinHeld c.report r.held }
    else { r with lost := min 65535 (r.lost + 1) })

/-! ### Placement (R145, R146) -/

/-- The filler before a report of `size` units, and 0 when it fits before the end (R146). -/
def fillerFor (position size : Nat) : Nat :=
  if position + size ≤ journalUnits then 0 else journalUnits - position

/-- A report of `size` units, with its own filler, needs no more than the room (R146). -/
def Reports.fits (r : Reports) (size : Nat) : Bool := fillerFor r.position size + size ≤ r.room

/-- The form and size in which a held report is placed now, if it is (R146). -/
def Reports.formFor (r : Reports) (h : HeldReport) : Option (Form × Nat) :=
  if h.buffer.isNone then (if r.fits h.fullSize then some (.stub, h.fullSize) else none)
  else if r.fits h.fullSize then some (.full, h.fullSize)
  else if r.fits h.summarySize then some (.summary, h.summarySize)
  else none

/-- Some CLOSING buffer holds a train with a lower train number (R145). -/
def State.closingBelow (s : State) (number : Word) : Bool :=
  s.tt.buffers.toList.any (fun x => x.state == .closing && below x.record.number number)

/-- The head of the held queue with the form and size in which it may be written now (R145, R146). -/
def State.writable (s : State) : Option (HeldReport × Form × Nat) :=
  match s.rpw.write, s.rpw.held with
  | none, h :: _ =>
    if s.closingBelow h.header.number then none
    else (s.rpw.formFor h).map (fun x => (h, x.1, x.2))
  | _, _ => none

/-- The axle entries a form shows, with their indices (R137, R140). -/
def axlesShown (form : Form) (axles : List AxleEntry) : List (AxleEntry × Nat) :=
  match form with
  | .full => axles.zipIdx
  | .summary => axles.zipIdx.filter (fun a => a.1.alarmBits != 0)
  | _ => []

/-- The body of a buffered report: vehicle records, axle records and alarm entries (R137). -/
def Buffer.bodyWords (x : Buffer) (form : Form) : List Word :=
  ((x.consist.getD []).zip x.vehicles).flatMap (fun v => vehicleWords v.1 v.2) ++
    ((axlesShown form x.axles).flatMap (fun a => axleWords a.2 a.1) ++ alarmUnits x.alarms)

/-- The write of a report of a form and size from the write position (R146, R147). -/
def State.writeFor (s : State) (h : HeldReport) (form : Form) (size : Nat) : ReportWrite :=
  let filler := fillerFor s.rpw.position size
  let x := (h.buffer.map s.buffer).getD Buffer.empty
  { form := form, sequence := succCount s.rpw.lastWritten
    start := if filler = 0 then s.rpw.position else 0
    filler := filler, size := size
    vehicles := x.vehicleCount, axles := (axlesShown form x.axles).length
    alarms := x.alarms.length, startedAt := s.tbu.cycle }

/-- The write of the head begins (R147): the buffer becomes WRITING, and the filler and the body are
written. -/
def State.startWrite (s : State) (h : HeldReport) (form : Form) (size : Nat) : State :=
  let w := s.writeFor h form size
  let x := (h.buffer.map s.buffer).getD Buffer.empty
  let s := match h.buffer with
    | some b => s.alterBuffer b (fun x => { x with state := .writing })
    | none => s
  let s := if w.filler = 0 then s else s.put (unitBase s.rpw.position) (fillerWords w.filler)
  let s := if h.buffer.isSome then s.put (unitBase (w.start + 2)) (x.bodyWords form) else s
  { s with rpw := { s.rpw with write := some w } }

/-! ### Marks (R152, R153) -/

/-- The high mark is reached with *high armed* set: JOURNAL_HIGH is raised and *high armed* cleared
(R152). -/
def State.checkHigh (s : State) : State :=
  if s.rpw.highArmed ∧ s.site.settings.highMark ≤ s.rpw.unreleased then
    (s.alterReports (fun r => { r with highArmed := false })).raise .journalHigh
  else s

/-- The low mark is reached with *high armed* clear: *high armed* is set (R152). -/
def State.checkLow (s : State) : State :=
  if !s.rpw.highArmed ∧ s.rpw.unreleased ≤ s.site.settings.lowMark then
    s.alterReports (fun r => { r with highArmed := true })
  else s

/-- A latch that changes either mark compares U with the new marks (R153): each condition is tested on
*high armed* as it stood at the latch. -/
def State.marksAtLatch (s : State) (old : Settings) : State :=
  if old.highMark = s.site.settings.highMark ∧ old.lowMark = s.site.settings.lowMark then s
  else if s.rpw.highArmed then s.checkHigh else s.checkLow

/-! ### Completion (R148) and release (R150) -/

/-- The unit after a report, or 0 when it ends at the last unit (R148). -/
def unitAfter (start size : Nat) : Nat := if start + size = journalUnits then 0 else start + size

/-- The journal after a write completes (R148): the index gains the report, U and W move on, WRITE_SEQ is
its sequence, the lost count is 0, and the report leaves the held queue. -/
def Reports.written (r : Reports) (w : ReportWrite) : Reports :=
  { r with
    index := r.index ++ [⟨w.sequence, w.filler, w.start, w.size⟩]
    unreleased := r.unreleased + (w.filler + w.size)
    position := unitAfter w.start w.size
    lastWritten := w.sequence, lost := 0
    held := r.held.tail, write := none }

/-- The write in flight completes (R148). -/
def State.completeWrite (s : State) (w : ReportWrite) (h : HeldReport) : State :=
  let s := s.put (unitBase w.start) (headerWords h.header w s.rpw.lost)
  let s := s.alterReports (·.written w)
  let s := match h.buffer with
    | some b => s.alterBuffer b (fun _ => Buffer.empty)
    | none => s
  (s.raise .report).checkHigh

/-- The units of an index entry, its filler included (R144). -/
def IndexEntry.units (e : IndexEntry) : Nat := e.filler + e.size

/-- The first filler or report unit of an index entry (R150): a filler ends the journal, so it stands in
its last units. -/
def IndexEntry.firstUnit (e : IndexEntry) : Nat := if e.filler = 0 then e.start else journalUnits - e.filler

/-- The journal after a release to `a` is accepted (R150): every entry at or below it is removed from the
front of the index and its units become free. -/
def Reports.release (r : Reports) (a : Word) : Reports :=
  let gone := r.index.takeWhile (fun e => !below a e.sequence)
  let kept := r.index.dropWhile (fun e => !below a e.sequence)
  { r with
    accepted := a, index := kept
    unreleased := r.unreleased - (gone.map IndexEntry.units).sum
    oldest := match kept with | e :: _ => e.firstUnit | [] => r.position }

/-- A RELEASE write is taken (R150): below the accepted release it is ignored, and otherwise it is clamped
to the last written sequence. -/
def State.takeRelease (s : State) (v : Word) : State :=
  if below v s.rpw.accepted then s
  else
    let a := lesser v s.rpw.lastWritten
    if a = s.rpw.accepted then s
    else (s.alterReports (·.release a)).checkLow

/-! ### Commands -/

/-- REPORT_WRITE_START (R147). -/
def execReportWriteStart (now : Cycle) (s : State) : Out :=
  event now s fun s =>
    match s.writable with
    | some (h, form, size) => s.startWrite h form size
    | none => s

/-- REPORT_WRITE_COMPLETE (R148). -/
def execReportWriteComplete (now : Cycle) (s : State) : Out :=
  event now s fun s =>
    match s.rpw.write, s.rpw.held with
    | some w, h :: _ => s.completeWrite w h
    | _, _ => s

/-- RELEASE_WRITE (R150, R160): the value is stored in the host's own word, and the write is an event at
the Report Writer. -/
def execReleaseWrite (now : Cycle) (value : Word) (s : State) : Out :=
  event now s fun s => (s.put (headerBase + 4) [value]).takeRelease value

end Sys2Proof.Machine
end

