-- ==== Sys2Proof/Machine/Closing.lean ====
section
/-!
DEFINITION. The close computations of a train with a buffer (R44): bogie grouping, the BEARING_DIFF check,
vehicle mapping, the *consist-late* marks and the final copy, with the command CLOSE_COMPUTATIONS.
-/

namespace Sys2Proof.Machine

open Sys2Proof

/-! ### Bogie grouping (R94, R95) -/

/-- An entry that is spacing-ready, as its speed and the T2 of its current run (R94). -/
def AxleEntry.spacingReady (e : AxleEntry) : Option (Nat × Cycle) :=
  match e.speed, e.temps, e.run.t2 with
  | some v, some t, some t2 => if t.recordRun = e.run.number then some (v, t2) else none
  | _, _, _ => none

/-- The spacing between two consecutive entries, when it is known (R94). -/
def spacing (rate : Nat) (a b : AxleEntry) : Option Nat :=
  match a.spacingReady, b.spacingReady with
  | some (u, ta), some (v, tb) =>
    let dt := (tb - ta).toInt
    if 0 < dt ∧ 8 * distance v u ≤ max v u then some ((dt.toNat * v + rate / 2) / rate) else none
  | _, _ => none

/-- Two consecutive entries are joined (R95). -/
def joined (rate bogieMax : Nat) (a b : AxleEntry) : Bool :=
  (spacing rate a b).any (fun d => d ≤ bogieMax)

/-- The lengths of the maximal runs of joined entries, in order (R95); `n` entries of the current run are
already counted, the last of them being `a`. -/
def runLengths (rate bogieMax : Nat) (a : AxleEntry) (n : Nat) : List AxleEntry → List Nat
  | [] => [n]
  | b :: rest =>
    if joined rate bogieMax a b then runLengths rate bogieMax b (n + 1) rest
    else n :: runLengths rate bogieMax b 1 rest

/-- The bogie index of each entry from the run lengths: a run of 2 to 4 is the next bogie, any other run
takes index 0 (R95). -/
def bogieIndices : Nat → List Nat → List Nat
  | _, [] => []
  | k, n :: rest =>
    if 2 ≤ n ∧ n ≤ 4 then List.replicate n k ++ bogieIndices (k + 1) rest
    else List.replicate n 0 ++ bogieIndices k rest

/-- The bogie indices of an axle table (R95). -/
def groupBogies (rate bogieMax : Nat) : List AxleEntry → List Nat
  | [] => []
  | a :: rest => bogieIndices 1 (runLengths rate bogieMax a 1 rest)

/-- Bogie grouping writes the bogie index of each entry (R95). -/
def State.groupBuffer (s : State) (b : Fin 4) : State :=
  s.alterBuffer b (fun x =>
    let bogies := groupBogies s.tbu.rate s.site.settings.bogieMax x.axles
    { x with axles := List.zipWith (fun e k => { e with bogie := k }) x.axles bogies })

/-! ### The differential bearing check (R82, R83) -/

/-- The value of an entry's bearing rise slot, if it is valid; place 0 is rail A, place 1 rail B. -/
def AxleEntry.bearing (e : AxleEntry) (place : Fin 4) : Option Nat :=
  match e.rise place with
  | .valid v _ => some v
  | _ => none

/-- The valid bearing rises of the other members of an entry's bogie on a rail (R83). -/
def otherBearings (axles : List AxleEntry) (i : Nat) (bogie : Nat) (place : Fin 4) : List Nat :=
  axles.zipIdx.filterMap (fun (e, j) => if e.bogie = bogie ∧ j ≠ i then e.bearing place else none)

/-- How far an entry's bearing stands above the others of its bogie (R83). -/
def bearingDiff (axles : List AxleEntry) (i : Nat) (e : AxleEntry) (place : Fin 4) : Option Int :=
  match e.bearing place with
  | none => none
  | some r =>
    let o := otherBearings axles i e.bogie place
    if e.bogie = 0 ∨ o = [] then none else some ((r : Int) - (o.sum / o.length : Nat))

/-- The BEARING_DIFF alarm of an entry on a rail, if it is raised (R83). -/
def diffAlarm (warn : Nat) (train : Word) (axles : List AxleEntry) (i : Nat) (e : AxleEntry)
    (place : Fin 4) (rail : Rail) : Option Alarm :=
  (bearingDiff axles i e place).bind (fun d =>
    if (warn : Int) ≤ d then
      some { kind := .bearingDiff, level := .warn, train := train, axle := i, rail := rail
             value := d.toNat, threshold := warn }
    else none)

/-- The BEARING_DIFF alarms of a train in increasing axle index, rail A before rail B (R83). -/
def diffAlarms (warn : Nat) (train : Word) (axles : List AxleEntry) : List Alarm :=
  axles.zipIdx.flatMap (fun (e, i) =>
    (diffAlarm warn train axles i e 0 .a).toList ++ (diffAlarm warn train axles i e 1 .b).toList)

/-- The BEARING_DIFF check of a buffer (R82, R83). -/
def State.checkBearings (s : State) (b : Fin 4) : State :=
  (diffAlarms s.site.settings.diffWarn (s.buffer b).record.number (s.buffer b).axles).foldl
    State.raiseForAxle s

/-! ### Vehicle mapping (R93, R96, R97) -/

/-- The number of the vehicle that owns an entry, counting from `n`, and 0 beyond the consist (R96). -/
def vehicleIndex : List Vehicle → Nat → Nat → Nat
  | [], _, _ => 0
  | v :: vs, n, i => if i < v.axles then n else vehicleIndex vs (n + 1) (i - v.axles)

/-- The vehicle results of a vehicle from the entries it owns, the first of them at index `start`
(R96). -/
def vehicleResult (start : Nat) (owned : List AxleEntry) : VehicleResult :=
  { firstAxle := if owned = [] then none else some start
    mapped := owned.length
    load := (owned.map AxleEntry.weighedLoad).sum
    weighed := owned.countP (·.weighed)
    alarmBits := owned.foldl (fun b e => b ||| e.alarmBits) 0 }

/-- The vehicle results of a consist, from the entry at index `start` on (R96). -/
def vehicleResults : List Vehicle → Nat → List AxleEntry → List VehicleResult
  | [], _, _ => []
  | v :: vs, start, axles =>
    vehicleResult start (axles.take v.axles) ::
      vehicleResults vs (start + v.axles) (axles.drop v.axles)

/-- Vehicle mapping of a buffer: the vehicle indices, the vehicle results and *consist mismatch*
(R96, R97), which is clear with no consist. -/
def Buffer.mapVehicles (x : Buffer) : Buffer :=
  match x.consist with
  | none => { x with vehicles := [], mismatch := false }
  | some vs =>
    { x with axles := x.axles.zipIdx.map (fun (e, i) => { e with vehicle := vehicleIndex vs 1 i })
             vehicles := vehicleResults vs 0 x.axles
             mismatch := consistTotal vs != x.record.entries }

/-- The *consist-late* marks of a buffer (R93). -/
def Buffer.markLate (x : Buffer) : Buffer :=
  match x.consist with
  | none => x
  | some vs =>
    { x with axles := x.axles.zipIdx.map (fun (e, i) =>
        if e.load.any (fun l => l.source == .default) ∧ (covering vs i).isSome then
          { e with consistLate := true }
        else e) }

/-! ### The final copy (R102) and the whole close (R44) -/

/-- The final copy: every alarm entry receives its board outcome (R102). -/
def Buffer.finalCopy (x : Buffer) (board : Board) : Buffer :=
  { x with alarms := x.alarms.map (fun e =>
      { e with outcome := some (board.outcomeOf x.record.number e) }) }

/-- The close computations of a buffer, in the order of R44, after which it is HELD and its report has
joined the held queue (R98, R142). -/
def State.closeBuffer (s : State) (b : Fin 4) : State :=
  let s := (s.groupBuffer b).checkBearings b
  let s := s.alterBuffer b (fun x => x.mapVehicles.markLate.finalCopy s.ab)
  s.joinBuffer b

/-- A buffer is CLOSING and the SE holds no request of its train (R44). -/
def State.closeDue (s : State) (b : Fin 4) : Bool :=
  (s.buffer b).state == .closing && !s.se.holds (s.buffer b).record.number

/-- A buffer put in its place by increasing train number (R47); of two exactly 2^31 apart, of which neither is lower, the
lower-numbered buffer comes first: the model's choice (notes/assumptions/48). -/
def insertByTrain (s : State) (b : Fin 4) : List (Fin 4) → List (Fin 4)
  | [] => [b]
  | x :: xs =>
    if below (s.buffer x).record.number (s.buffer b).record.number then x :: insertByTrain s b xs
    else b :: x :: xs

/-- The CLOSING buffers in increasing train number (R47). -/
def State.closingBuffers (s : State) : List (Fin 4) :=
  ((List.finRange 4).filter (fun b => (s.buffer b).state == .closing)).foldr (insertByTrain s) []

/-! ### Command -/

/-- CLOSE_COMPUTATIONS (R44). -/
def execCloseComputations (now : Cycle) (buffer : Fin 4) (s : State) : Out :=
  event now s fun s => if s.closeDue buffer then s.closeBuffer buffer else s

end Sys2Proof.Machine
end

