-- ==== Sys2Proof/Machine/Tracker.lean ====
section
/-!
DEFINITION. The Train Tracker (chapter 2): opening, the crossing rules, closing, and the commands
APPROACH_TIMEOUT, QUIET_TIMEOUT and OPEN_LIMIT_EXPIRY.
-/

namespace Sys2Proof.Machine

open Sys2Proof

/-! ### Gates and crossings -/

/-- A crossing as the WDI hands it on: a detector, a direction and a time (R5). -/
structure Crossing where
  det : Det
  dir : Dir
  time : Cycle
  deriving DecidableEq, Repr

/-- The part a detector plays for a train of a direction (R26). -/
inductive GateRole where
  | entryApproach | exitApproach | entry | middle | exit
  deriving DecidableEq, Repr

/-- The part a detector plays for a train of forward direction `d` (R26). -/
def roleOf (d : Dir) (det : Det) : GateRole :=
  match d, det with
  | .east, .apW => .entryApproach
  | .east, .apE => .exitApproach
  | .east, .g1 => .entry
  | .east, .g3 => .exit
  | .west, .apE => .entryApproach
  | .west, .apW => .exitApproach
  | .west, .g3 => .entry
  | .west, .g1 => .exit
  | _, .g2 => .middle

/-- The train that crossings move: its record, its axle table, and whether it has a buffer (R27). -/
structure Tracked where
  record : TrainRecord
  axles : List AxleEntry
  buffered : Bool
  deriving DecidableEq, Repr

/-- The size of the staging deque (R29). -/
def stagingSize : Nat := 8

/-- The size of an axle table (R27). -/
def tableSize : Nat := 1024

/-! ### The crossing rules (R31 to R37) -/

/-- A forward crossing at the entry gate (R31). -/
def entryForward (t : Cycle) (r : TrainRecord) : TrainRecord :=
  if r.staging.length < stagingSize then { r with staging := r.staging ++ [some t] }
  else { r with stagingOverflow := true }

/-- A reverse crossing at the entry gate (R32). -/
def entryReverse (r : TrainRecord) : TrainRecord :=
  if r.staging = [] then { r with countDisagreement := true }
  else { r with staging := r.staging.dropLast }

/-- A record without time is inserted at the head of the staging deque (R34). -/
def stageAtHead (r : TrainRecord) : TrainRecord :=
  if r.staging.length < stagingSize then { r with staging := none :: r.staging }
  else { r with stagingOverflow := true }

/-- An axle entry at its creation (R38). -/
def AxleEntry.created (state : AxleState) (run : Run) : AxleEntry :=
  { state := state, run := run, revisits := 0, speed := none, load := none, temps := none
    consistLate := false, alarmBits := 0, bogie := 0, vehicle := 0 }

/-- The run that a forward crossing of the reference gate starts (R33): at G2 the time is T2; under
substitution the exit gate is crossed and the time is T3 (R37). -/
def startRun (substituted : Bool) (number : Nat) (t1 : Option Cycle) (t : Cycle) : Run :=
  { number := number, t1 := t1
    t2 := if substituted then none else some t
    t3 := if substituted then some t else none
    broken := false, twoGate := t1.isNone }

/-- A re-entered entry (R33). -/
def AxleEntry.reenter (e : AxleEntry) (substituted : Bool) (t1 : Option Cycle) (t : Cycle) : AxleEntry :=
  { e with state := if substituted then .passed else .entered
           revisits := e.revisits + 1
           run := startRun substituted (e.run.number + 1) t1 t }

/-- A forward crossing at the reference gate (R33), or at the exit gate of a train with *reference
substituted* (R37): a re-entry, a new axle, or a full table. -/
def refForward (substituted : Bool) (t : Cycle) (tr : Tracked) : Tracked :=
  let t1 : Option Cycle := tr.record.staging.head?.join
  let r : TrainRecord := { tr.record with staging := tr.record.staging.tail }
  let dx : Nat := if substituted then 1 else 0
  let fresh : AxleEntry :=
    AxleEntry.created (if substituted then .passed else .entered) (startRun substituted 1 t1 t)
  if r.f < r.entries then
    { tr with
      record := { r with f := r.f + 1, x := r.x + dx, revisits := r.revisits + 1 }
      axles := tr.axles.modify r.f (·.reenter substituted t1 t) }
  else if r.entries < tableSize then
    { tr with
      record := { r with f := r.f + 1, x := r.x + dx, entries := r.entries + 1 }
      axles := if tr.buffered then tr.axles ++ [fresh] else tr.axles }
  else { tr with record := { r with overflow := r.overflow + 1, tableOverflow := true } }

/-- The record after a reverse crossing of the reference gate takes an overflow axle back (R34). -/
def TrainRecord.backOverflow (r : TrainRecord) : TrainRecord :=
  let o := r.overflow - 1
  { r with
    overflow := o
    overflowExit := min r.overflowExit o
    countDisagreement := r.countDisagreement || o < r.overflowExit }

/-- The record after a reverse crossing of the reference gate takes the front axle back (R34, R37). -/
def TrainRecord.backFront (r : TrainRecord) (substituted : Bool) : TrainRecord :=
  let f := r.f - 1
  { r with
    f := f
    x := if substituted then r.x - 1 else if f < r.x then r.x - 1 else r.x
    countDisagreement := r.countDisagreement || (!substituted && f < r.x) }

/-- A reverse crossing at the reference gate (R34), or at the exit gate of a train with *reference
substituted* (R37). -/
def refReverse (substituted : Bool) (tr : Tracked) : Tracked :=
  let r := tr.record
  if 0 < r.overflow then { tr with record := stageAtHead r.backOverflow }
  else if 0 < r.f then
    { tr with
      record := stageAtHead (r.backFront substituted)
      axles := tr.axles.modify (r.f - 1) (fun e => { e with state := .backed }) }
  else { tr with record := { r with underrun := true } }

/-- A run is clean when T2 is present and *broken* is clear (R35). -/
def Run.clean (r : Run) : Bool := r.t2.isSome && !r.broken

/-- The request of an axle whose clean run crosses the exit gate at `t`, with its copy of the run (R35,
R48). -/
def requestFor (r : TrainRecord) (axle : Nat) (e : AxleEntry) (t : Cycle) : Option Request :=
  if e.run.clean then
    e.run.t2.map (fun t2 =>
      { train := r.number, axle := axle, run := e.run.number, dir := r.dir
        t1 := e.run.t1, t2 := t2, t3 := t, twoGate := e.run.twoGate })
  else none

/-- A forward crossing at the exit gate (R35), with the request it makes, if it makes one. -/
def exitForward (t : Cycle) (tr : Tracked) : Tracked × Option Request :=
  let r := tr.record
  if r.x < r.f then
    ({ tr with
       record := { r with x := r.x + 1 }
       axles := tr.axles.modify r.x (fun e =>
         { e with state := .passed, run := { e.run with t3 := some t } }) },
      (tr.axles[r.x]?).bind (fun e => requestFor r r.x e t))
  else if r.overflowExit < r.overflow then
    ({ tr with record := { r with overflowExit := r.overflowExit + 1 } }, none)
  else ({ tr with record := { r with phantom := true } }, none)

/-- A reverse crossing at the exit gate (R36). -/
def exitReverse (tr : Tracked) : Tracked :=
  let r := tr.record
  if 0 < r.overflowExit then { tr with record := { r with overflowExit := r.overflowExit - 1 } }
  else if 0 < r.x then
    { tr with
      record := { r with x := r.x - 1 }
      axles := tr.axles.modify (r.x - 1) (fun e =>
        { e with state := .entered, run := { e.run with t3 := none, broken := true } }) }
  else { tr with record := { r with phantom := true } }

/-- A crossing of an open train, by the part its detector plays and whether it is forward (R30 to
R37). -/
def crossTrain (c : Crossing) (tr : Tracked) : Tracked × Option Request :=
  let r := tr.record
  let forward : Bool := c.dir == r.dir
  match roleOf r.dir c.det, forward with
  | .entryApproach, true => ({ tr with record := { r with entryNet := r.entryNet + 1 } }, none)
  | .entryApproach, false => ({ tr with record := { r with entryNet := r.entryNet - 1 } }, none)
  | .exitApproach, true => ({ tr with record := { r with exitNet := r.exitNet + 1 } }, none)
  | .exitApproach, false => ({ tr with record := { r with exitNet := r.exitNet - 1 } }, none)
  | .entry, true => ({ tr with record := entryForward c.time r }, none)
  | .entry, false => ({ tr with record := entryReverse r }, none)
  | .middle, true => (if r.substituted then tr else refForward false c.time tr, none)
  | .middle, false => (if r.substituted then tr else refReverse false tr, none)
  | .exit, true => if r.substituted then (refForward true c.time tr, none) else exitForward c.time tr
  | .exit, false => (if r.substituted then refReverse true tr else exitReverse tr, none)

/-- The detector is a gate of the zone. -/
def isGate : Det → Bool
  | .g1 | .g2 | .g3 => true
  | .apW | .apE => false

/-! ### Timers of an open train (R41, R42) -/

/-- The quiet timer runs only while no gate is tracking-occupied (R41). -/
def QuietTimer.sync (q : QuietTimer) (clear : Bool) (now : Cycle) : QuietTimer :=
  match q, clear with
  | .running since left, false => .suspended (left - elapsed since now)
  | .suspended left, true => .running now left
  | q, _ => q

/-- The quiet timer at its full duration: suspended while it is suspended (R41). One whose expiry was
forgone starts again, suspended while a gate is occupied. -/
def QuietTimer.restart (q : QuietTimer) (full : Nat) (clear : Bool) (now : Cycle) : QuietTimer :=
  match q with
  | .stopped => .stopped
  | .running _ _ => .running now full
  | .suspended _ => .suspended full
  | .forgone => (QuietTimer.running now full).sync clear now

/-- The quiet timer after a crossing that does not restart it: an expiry of that very instant does not
happen (R40). -/
def QuietTimer.forgo (q : QuietTimer) (now : Cycle) : QuietTimer :=
  match q with
  | .running since left => if elapsed since now = left then .forgone else q
  | q => q

/-- The open-limit timer after a crossing: an expiry of that very instant does not happen (R40). -/
def forgoOpenLimit (limit : Nat) (start : Option Cycle) (now : Cycle) : Option Cycle :=
  start.filter (fun t => elapsed t now != limit)

/-- The full duration of the quiet timer in cycles (R24, R41). -/
def State.quietFull (s : State) : Nat := secondsToCycles s.site.settings.quietTimeout

/-- The open train's quiet timer follows the gates' occupancy (R41) at the cycle at which the change is taken, which for
an edge is that of its acceptance: the model's reading (notes/assumptions/45). -/
def State.syncQuiet (s : State) : State :=
  s.alterOpen (fun r => { r with quiet := r.quiet.sync s.gatesClear s.tbu.cycle })

/-- The open train's quiet timer has run out (R41). -/
def State.quietDue (s : State) : Bool :=
  s.openRecord.any (fun r =>
    match r.quiet with
    | .running since left => s.ran since left
    | _ => false)

/-- The open train's open-limit timer has run out (R42). -/
def State.openLimitDue (s : State) : Bool :=
  s.openRecord.any (fun r => r.openLimit.any (fun t =>
    s.ran t (secondsToCycles s.site.settings.openLimit)))

/-! ### Tracker states (R24) -/

/-- The stuck timers follow a tracker state that has just been entered (R7): in OPEN they are cancelled;
in IDLE and APPROACH one starts on each occupied detector in service that has none. -/
def Detector.onTracker (d : Detector) (opened : Bool) (now : Cycle) : Detector :=
  if opened then { d with stuckTimer := none }
  else if d.tracked ∧ d.stuckTimer = none then { d with stuckTimer := some now }
  else d

/-- A tracker state is entered (R24): leaving IDLE freezes the channels and ends every flat run (R11, R13),
and the detectors' stuck timers start or are cancelled (R7). -/
def State.enterTracker (s : State) (t : Tracker) : State :=
  let sau := if s.tt.tracker = .idle ∧ t ≠ .idle then
      { s.sau with channels := alterAll s.sau.channels (fun c => { c with flatRun := none }) }
    else s.sau
  { s with tt := { s.tt with tracker := t }
           sau := sau
           wdi := alterAll s.wdi (fun d => d.onTracker (t = .opened) s.tbu.cycle) }

/-! ### Opening (R26 to R28) -/

/-- The record of a train at opening, before its opening crossing is taken (R26, R28, R29). The quiet and open-limit
timers start at the cycle at which the crossing is taken, not at its carried time: the model's reading
(notes/assumptions/45). -/
def State.openingRecord (s : State) (dir : Dir) (number : Word) : TrainRecord :=
  let counts : Int := match s.tt.tracker, dir with
    | .approach a, .east => a.countW
    | .approach a, .west => a.countE
    | _, _ => 0
  { TrainRecord.blank with
    number := number, dir := dir, openTime := s.tbu.siteTime
    entryNet := counts
    substituted := (s.detector .g2).service != .inService
    sensorFault := s.anyFaulted
    untrimmed := s.tbu.trim != .trimmed
    ambients := s.ambients
    quiet := (QuietTimer.running s.tbu.cycle s.quietFull).sync s.gatesClear s.tbu.cycle
    openLimit := some s.tbu.cycle }

/-- A train opens at a gate crossing (R26, R27): it takes the lowest-numbered FREE buffer with the
consist of the NEXT slot, or becomes count-only and the list is discarded (R91). -/
def State.openTrain (s : State) (dir : Dir) : State :=
  let number := succCount s.tt.trainNumber
  let r := s.openingRecord dir number
  let tt := match s.bufferIn .free with
    | some b => { s.tt with trainNumber := number, buffers := alter s.tt.buffers b (fun _ =>
        { Buffer.empty with state := .opened, record := r, consist := s.next }) }
    | none => { s.tt with trainNumber := number, countOnly := some ⟨r, s.next.map (·.length)⟩ }
  (State.enterTracker { s with tt := tt, next := none } .opened).raise .train

/-- The open train as crossings move it. -/
def State.tracked (s : State) : Option Tracked :=
  match s.bufferIn .opened with
  | some b => some ⟨(s.buffer b).record, (s.buffer b).axles, true⟩
  | none => s.tt.countOnly.map (fun c => ⟨c.record, [], false⟩)

/-- The open train takes what a crossing has made of it. -/
def State.putTracked (s : State) (tr : Tracked) : State :=
  match s.bufferIn .opened with
  | some b => s.alterBuffer b (fun x => { x with record := tr.record, axles := tr.axles })
  | none => { s with tt := { s.tt with
      countOnly := s.tt.countOnly.map (fun c => { c with record := tr.record }) } }

/-! ### Closing (R40 to R45) -/

/-- The close condition that holds of an open train after a crossing or a change of occupancy (R40). -/
def closeCondition (r : TrainRecord) (gatesClear : Bool) : Option CloseStatus :=
  if r.exitNet = ((r.f + r.overflow : Nat) : Int) ∧ 0 < r.f + r.overflow ∧ gatesClear = true then
    some .cleared
  else if r.f + r.overflow = 0 ∧ r.staging = [] ∧ r.entryNet ≤ 0 then some .withdrawn
  else none

/-- The record of a train that closes (R43). -/
def TrainRecord.close (r : TrainRecord) (status : CloseStatus) (now : SiteTime) : TrainRecord :=
  { r with closeTime := some now, status := some status, staging := [], quiet := .stopped
           openLimit := none }

/-- The tracker returns to IDLE and TRAIN attention is raised (R43). -/
def State.trainGone (s : State) : State := (s.enterTracker .idle).raise .train

/-- The open train closes with a status (R43, R45). A train in a buffer becomes CLOSING, and does its close
computations at the close event when the SE holds no request of it (R44). A count-only record goes to
the held queue as a stub. -/
def State.closeTrain (s : State) (status : CloseStatus) : State :=
  let s := s.alterOpen (fun r => r.close status s.tbu.siteTime)
  match s.bufferIn .opened with
  | some b =>
    let s := (s.alterBuffer b (fun x => { x with state := .closing })).trainGone
    if s.closeDue b then s.closeBuffer b else s
  | none => match s.tt.countOnly with
    | some c => (State.joinStub { s with tt := { s.tt with countOnly := none } } c).trainGone
    | none => s.trainGone

/-- The close conditions of the open train are evaluated (R40). -/
def State.evaluateClose (s : State) : State :=
  match s.openRecord with
  | some r => match closeCondition r s.gatesClear with
    | some status => s.closeTrain status
    | none => s
  | none => s

/-! ### Taking a crossing -/

/-- The timers of the open train at a crossing: the quiet timer restarts at a gate (R41), and an expiry of
the same instant does not happen (R40). The restart counts from the cycle at which the crossing is taken, not from its
carried time: the model's reading (notes/assumptions/45). -/
def State.timersAtCrossing (s : State) (gate : Bool) (r : TrainRecord) : TrainRecord :=
  let now := s.tbu.cycle
  { r with
    quiet := if gate then r.quiet.restart s.quietFull s.gatesClear now else r.quiet.forgo now
    openLimit := forgoOpenLimit (secondsToCycles s.site.settings.openLimit) r.openLimit now }

/-- The open train takes a crossing (section 2.4): its timers are restarted or forgone (R40, R41), the
crossing rules move the counts, and a request goes to the SE (R48). -/
def State.crossOpen (s : State) (c : Crossing) : State :=
  match s.tracked with
  | none => s
  | some tr =>
    let tr := { tr with record := s.timersAtCrossing (isGate c.det) tr.record }
    let moved := crossTrain c tr
    let s := s.putTracked moved.1
    match moved.2 with
    | some q => s.request q
    | none => s

/-- A crossing at an approach sensor is toward the zone (R24). -/
def towardZone (c : Crossing) : Bool :=
  (c.det == .apW && c.dir == .east) || (c.det == .apE && c.dir == .west)

/-- The approach counts after an approach crossing in APPROACH, with the timer restarted (R25) from `now`, the cycle at
which the crossing is taken, not from its carried time: the model's reading (notes/assumptions/45). -/
def Approach.cross (a : Approach) (c : Crossing) (now : Cycle) : Approach :=
  let d : Int := if towardZone c then 1 else -1
  match c.det with
  | .apW => { a with countW := a.countW + d, timer := now }
  | .apE => { a with countE := a.countE + d, timer := now }
  | _ => a

/-- The TT takes a crossing that the WDI hands on (R24 to R26, section 2.4), and evaluates the close
conditions while OPEN (R40). The approach timer counts from the cycle at which the crossing is taken, not from its
carried time: the model's reading (notes/assumptions/45). -/
def State.takeCrossing (s : State) (c : Crossing) : State :=
  match s.tt.tracker with
  | .opened => (s.crossOpen c).evaluateClose
  | .idle =>
    if isGate c.det then ((s.openTrain c.dir).crossOpen c).evaluateClose
    else if towardZone c then
      s.enterTracker (.approach
        { countW := if c.det = .apW then 1 else 0, countE := if c.det = .apE then 1 else 0
          timer := s.tbu.cycle })
    else s
  | .approach a =>
    if isGate c.det then ((s.openTrain c.dir).crossOpen c).evaluateClose
    else { s with tt := { s.tt with tracker := .approach (a.cross c s.tbu.cycle) } }

/-- A change of tracking occupancy is an event at the TT: the quiet timer is suspended or resumed (R41) and
the close conditions are evaluated (R6, R40). -/
def State.occupancyChanged (s : State) : State := s.syncQuiet.evaluateClose

/-- The open train is marked as having had a sensor fault (R1, R28). -/
def State.markSensorFault (s : State) : State := s.alterOpen (fun r => { r with sensorFault := true })

/-- The open train is marked untrimmed (R20, R28). -/
def State.markUntrimmed (s : State) : State := s.alterOpen (fun r => { r with untrimmed := true })

/-- A channel fault has been entered: SENSOR attention, and the open train's mark (R1). -/
def State.faultEntered (s : State) : State := (s.raise .sensor).markSensorFault

/-! ### Approach and reset -/

/-- The approach timer has run for the approach timeout (R25). -/
def State.approachDue (s : State) : Bool :=
  match s.tt.tracker with
  | .approach a => s.ran a.timer (secondsToCycles s.site.settings.approachTimeout)
  | _ => false

/-- A site reset drops the open train or the approach, and the tracker becomes IDLE (R47). The buffer, or
the count-only record, is freed without a report. -/
def State.dropTrain (s : State) : State :=
  let tt := match s.bufferIn .opened with
    | some b => { s.tt with buffers := alter s.tt.buffers b (fun _ => Buffer.empty) }
    | none => s.tt
  State.enterTracker { s with tt := { tt with countOnly := none } } .idle

/-! ### Commands -/

/-- APPROACH_TIMEOUT (R25). -/
def execApproachTimeout (now : Cycle) (s : State) : Out :=
  event now s fun s => if s.approachDue then s.enterTracker .idle else s

/-- QUIET_TIMEOUT (R41). -/
def execQuietTimeout (now : Cycle) (s : State) : Out :=
  event now s fun s => if s.quietDue then s.closeTrain .timedOut else s

/-- OPEN_LIMIT_EXPIRY (R42). -/
def execOpenLimitExpiry (now : Cycle) (s : State) : Out :=
  event now s fun s => if s.openLimitDue then s.closeTrain .abandoned else s

end Sys2Proof.Machine
end

