-- ==== Sys2Proof/Machine/FrontEnd.lean ====
section
/-!
DEFINITION. The track sensing front end and the timebase (chapter 1), and the commands ELEMENT_EDGE to
MILLISECOND_TICK.
-/

namespace Sys2Proof.Machine

open Sys2Proof

/-! ### Wheel detectors (R3 to R8) -/

/-- The filter of R3, in cycles. -/
def elementFilter : Nat := 2000

/-- Whether a decoder state shows an element covered (R4). -/
def DecoderState.covers : DecoderState → Element → Bool
  | .clear, _ => false
  | .oneW, .e1 => true
  | .oneW, .e2 => false
  | .oneE, .e1 => false
  | .oneE, .e2 => true
  | .both, _ => true

/-- The New state column of R4; an edge that repeats the element's level changes nothing. -/
def DecoderState.after : DecoderState → Element → Bool → DecoderState
  | .clear, .e1, true => .oneW
  | .clear, .e2, true => .oneE
  | .oneW, .e2, true => .both
  | .oneW, .e1, false => .clear
  | .oneE, .e1, true => .both
  | .oneE, .e2, false => .clear
  | .both, .e1, false => .oneE
  | .both, .e2, false => .oneW
  | st, _, _ => st

/-- The side of an element (section 1.2). -/
def sideOf : Element → Side
  | .e1 => .west
  | .e2 => .east

/-- The entry side and the candidate after an accepted edge at `time` (R4, R5). -/
def Detector.decode (d : Detector) (e : Element) (covered : Bool) (time : Cycle) : Detector :=
  let next := d.decoder.after e covered
  match d.decoder, next with
  | .clear, .clear => d
  | .clear, _ => { d with decoder := next, entrySide := some (sideOf e), candidate := none }
  | _, .clear => { d with decoder := next, entrySide := none, candidate := none }
  | .both, .both => d
  | .both, _ => { d with decoder := next, candidate := some time }
  | _, _ => { d with decoder := next }

/-- The crossing a decoder emits at an edge of an element that returns it to CLEAR: entry and exit side are
opposite, and the candidate is its time (R5). -/
def Detector.emits (d : Detector) (e : Element) (covered : Bool) : Option (Dir × Cycle) :=
  if d.decoder ≠ .clear ∧ d.decoder.after e covered = .clear then
    match d.entrySide, (sideOf e) with
    | some .west, .east => d.candidate.map (fun t => (.east, t))
    | some .east, .west => d.candidate.map (fun t => (.west, t))
    | _, _ => none
  else none

/-- The stuck timer after an edge that moved the decoder from `old` (R7): it starts when the decoder leaves
CLEAR with no train open and the detector in service, and it is cancelled at CLEAR. -/
def Detector.timeStuck (d : Detector) (old : DecoderState) (opened : Bool) (now : Cycle) : Detector :=
  if d.decoder = .clear then { d with stuckTimer := none }
  else if old = .clear ∧ opened = false ∧ d.service = .inService then
    { d with stuckTimer := some (d.stuckTimer.getD now) }
  else d

/-- A detector changed. -/
def State.alterDetector (s : State) (d : Det) (f : Detector → Detector) : State :=
  { s with wdi := alter s.wdi (detIndex d) f }

/-- A change of a detector's tracking occupancy, from `before`, reaches the TT when the detector is a gate
(R6, R40, R41). -/
def State.afterOccupancy (s : State) (d : Det) (before : Bool) : State :=
  if isGate d = true ∧ (s.detector d).tracked ≠ before then s.occupancyChanged else s

/-- The decoder of a detector takes an accepted edge (R4), with its stuck timer (R7). -/
def State.moveDecoder (s : State) (d : Det) (e : Element) (covered : Bool) (time : Cycle) : State :=
  s.alterDetector d (fun x =>
    (x.decode e covered time).timeStuck x.decoder (s.tt.tracker = .opened) s.tbu.cycle)

/-- The crossing that a detector hands to the TT at an edge, if it hands one: it is in service and the site
is in WATCH (R5). -/
def State.crossingAt (s : State) (d : Det) (e : Element) (covered : Bool) : Option Crossing :=
  let x := s.detector d
  if x.service = .inService ∧ s.site.mode = .watch then
    (x.emits e covered).map (fun c => ⟨d, c.1, c.2⟩)
  else none

/-- An accepted edge (R3): the decoder moves, a crossing is handed to the TT or dropped (R5), and a change
of tracking occupancy is an event at the TT (R6). The crossing is taken first, with the gate already clear: the model's
reading (notes/assumptions/25). -/
def State.takeEdge (s : State) (d : Det) (e : Element) (covered : Bool) (time : Cycle) : State :=
  let before := (s.detector d).tracked
  let moved := s.moveDecoder d e covered time
  let crossed := match s.crossingAt d e covered with
    | some c => moved.takeCrossing c
    | none => moved
  crossed.afterOccupancy d before

/-- The stuck timer of an in-service detector has run for more than the stuck limit (R7). -/
def State.stuckDue (s : State) (d : Det) : Bool :=
  (s.detector d).service == .inService &&
    (s.detector d).stuckTimer.any (fun t =>
      decide (secondsToCycles s.site.settings.stuckLimit < elapsed t s.tbu.cycle))

/-- A detector enters FAULTED:STUCK (R1, R7). -/
def State.stick (s : State) (d : Det) : State :=
  let before := (s.detector d).tracked
  ((s.alterDetector d (fun x =>
    { x with service := .stuck, entrySide := none, stuckTimer := none })).faultEntered).afterOccupancy
      d before

/-! ### Strain channels (R9 to R13) -/

/-- The capacity of a history ring (R10). -/
def historySize : Nat := 32768

/-- The value of an output point from its raw samples (R9). -/
def pointValue (samples : List Sample) : Int :=
  ((samples.map (·.toInt)).sum + ((samples.length / 2 : Nat) : Int)) / (samples.length : Int)

/-- The clip marker of an output point (R9). -/
def pointClip (samples : List Sample) : Bool :=
  samples.any (fun x => x.toInt == 32767 || x.toInt == -32768)

/-- The output point of its raw samples; for N = 1 it is the raw sample itself (R9). -/
def pointOf (samples : List Sample) : Point := ⟨pointValue samples, pointClip samples⟩

/-- The flat run after a new point whose first cycle is `first` (R13); `running` says that the channel is in
service and unfrozen. -/
def StrainChannel.flatAfter (c : StrainChannel) (p : Point) (running : Bool) (first : Cycle) :
    Option Cycle :=
  if !running then c.flatRun
  else match c.flatRun, c.history with
    | some t, q :: _ => if q.value = p.value then some t else some first
    | _, _ => some first

/-- A complete point is written (R9 to R11, R13). -/
def StrainChannel.write (c : StrainChannel) (p : Point) (running : Bool) (cpp : Nat) : StrainChannel :=
  { c with
    history := (p :: c.history).take historySize
    next := c.next + 1
    baseline := some (c.baseline.getD (256 * p.value))
    flatRun := c.flatAfter p running (BitVec.ofNat 64 (c.next * cpp)) }

/-- A strain input changed. -/
def State.alterStrain (s : State) (i : Fin 16) (f : StrainChannel → StrainChannel) : State :=
  { s with sau := { s.sau with channels := alter s.sau.channels i f } }

/-- The next point of a strain input is complete: its last cycle has passed (R9). Points are numbered without bound and
compared with the counter, so after the 64-bit counter has wrapped none completes until a latch that changes N, or a
full reset, numbers them anew: the model's choice (notes/assumptions/46). -/
def State.pointDue (s : State) (i : Fin 16) : Bool :=
  ((s.sau.channels.get i).next + 1) * s.site.settings.cyclesPerPoint ≤ s.tbu.cycle.toNat

/-- The next point of a strain input is written (R9, R10, R11, R13). -/
def State.writePoint (s : State) (i : Fin 16) (p : Point) : State :=
  s.alterStrain i (fun c =>
    c.write p (c.service == .inService && !s.frozen) s.site.settings.cyclesPerPoint)

/-- The interval of the baseline updates, in cycles (R11). -/
def baselineInterval : Nat := 100000

/-- The instant is one of the baseline updates, the channels are unfrozen, and the update of this instant
has not been made (R11). -/
def State.baselineDue (s : State) : Bool :=
  s.tbu.cycle.toNat % baselineInterval == 0 && !s.frozen && decide (s.sau.updatedAt ≠ some s.tbu.cycle)

/-- A baseline moved toward a point (R11). -/
def baselineStep (b p : Int) : Int := b + (256 * p - b).tdiv 256

/-- The new integer baseline is beyond the drift limit (R12). -/
def drifts (b zeroRef : Int) (limit : Nat) : Bool := limit < (b / 256 - zeroRef).natAbs

/-- A channel after a baseline update, with the drift check (R11, R12). That it stays as it is when its newest point
does not complete at that very cycle is the model's reading (notes/assumptions/17). -/
def StrainChannel.track (c : StrainChannel) (now cpp : Nat) (zeroRef : Int) (limit : Nat) :
    StrainChannel :=
  match c.baseline, c.history with
  | some b, p :: _ =>
    if c.next * cpp = now then
      let b := baselineStep b p.value
      if c.service = .inService ∧ drifts b zeroRef limit then
        { c with baseline := some b, service := .drift, flatRun := none }
      else { c with baseline := some b }
    else c
  | _, _ => c

/-- The strain channels after the baseline update of this instant (R11, R12). -/
def State.trackedChannels (s : State) : Vector StrainChannel 16 :=
  let c := s.site.settings
  tabulate 16 (fun i =>
    let name := strainInput c.railSwap i
    (s.sau.channels.get i).track s.tbu.cycle.toNat c.cyclesPerPoint (c.zeroRefs.get name)
      (c.driftLimits.get name))

/-- Some channel's service state has become faulted. -/
def someFault (old new : List Service) : Bool := (old.zip new).any (fun x => x.1 != x.2)

/-- The baseline update of this instant (R11, R12). -/
def State.updateBaselines (s : State) : State :=
  let new := s.trackedChannels
  let t : State := { s with sau := ⟨new, some s.tbu.cycle⟩ }
  if someFault (s.sau.channels.toList.map (·.service)) (new.toList.map (·.service)) then t.faultEntered
  else t

/-- The flat run of an unfrozen in-service input has lasted 10 s (R13). That the point which completes at that very
cycle need not have been written and compared first is the model's choice (notes/assumptions/43). -/
def State.flatDue (s : State) (i : Fin 16) : Bool :=
  (s.sau.channels.get i).service == .inService && !s.frozen &&
    (s.sau.channels.get i).flatRun.any (fun t => s.ran t 100000000)

/-- An input enters FAULTED:FLAT (R13). -/
def State.flatten (s : State) (i : Fin 16) : State :=
  (s.alterStrain i (fun c => { c with service := .flat, flatRun := none })).faultEntered

/-! ### Scanners (R16 to R19) -/

/-- The length of a slot, in cycles (R16). -/
def slotLength : Nat := 10000

/-- The capacity of a scanner's history (R16). -/
def slotHistory : Nat := 8192

/-- A scanner link changed. -/
def State.alterScanner (s : State) (l : Fin 4) (f : Scanner → Scanner) : State :=
  { s with tsu := { s.tsu with scanners := alter s.tsu.scanners l f } }

/-- An accepted sample arrives (R16 to R18): it is stored in its slot, it is the first ambient when there is
none, and it restarts the link timer. -/
def Scanner.arrive (c : Scanner) (x : Sample) (now : Cycle) : Scanner :=
  let k := now.toNat / slotLength
  { c with
    arrivals := (k, x) :: c.arrivals.filter (fun a => a.1 != k)
    latest := some x
    fresh := true
    ambient := some (c.ambient.getD (64 * x.toInt))
    linkTimer := now }

/-- A slot completes on a scanner, holding a sample or a gap (R16). -/
def Scanner.completeSlot (c : Scanner) (k : Nat) : Scanner :=
  { c with
    history := (c.arrivals.lookup k :: c.history).take slotHistory
    arrivals := c.arrivals.filter (fun a => a.1 != k) }

/-- The open slot's end has been passed (R16). Slots are numbered without bound and compared with the counter, so after
the 64-bit counter has wrapped none completes until a full reset: the model's choice (notes/assumptions/46). -/
def State.slotDue (s : State) : Bool := (s.tsu.nextSlot + 1) * slotLength ≤ s.tbu.cycle.toNat

/-- The open slot completes on every scanner (R16). -/
def State.completeSlots (s : State) : State :=
  { s with tsu := { s.tsu with
      scanners := alterAll s.tsu.scanners (·.completeSlot s.tsu.nextSlot)
      nextSlot := s.tsu.nextSlot + 1 } }

/-- The interval of the ambient updates and of the live refreshes, in cycles (R17, R177). -/
def updateInterval : Nat := 1000000

/-- The instant is one of the ambient update instants and has not been taken yet (R17). -/
def State.ambientDue (s : State) : Bool :=
  s.tbu.cycle.toNat % updateInterval == 0 && decide (s.tsu.updatedAt ≠ some s.tbu.cycle)

/-- An ambient moved toward a sample (R17). -/
def ambientStep (a x : Int) : Int := a + (64 * x - a).tdiv 64

/-- The integer ambient lies outside the accepted range (R18). -/
def ambientOutside (a : Int) : Bool := a / 64 < -500 || 600 < a / 64

/-- A scanner after an ambient update instant (R17, R18): the update, when the scanners are unfrozen and a
sample has arrived since the previous instant, with the check. -/
def Scanner.track (c : Scanner) (frozen : Bool) : Scanner :=
  match c.ambient, c.latest with
  | some a, some x =>
    if frozen = false ∧ c.fresh = true then
      let a := ambientStep a x.toInt
      { c with
        ambient := some a, fresh := false
        service := if c.service = .inService ∧ ambientOutside a then .ambient else c.service }
    else { c with fresh := false }
  | _, _ => { c with fresh := false }

/-- The ambient update of this instant (R17, R18). -/
def State.updateAmbients (s : State) : State :=
  let new := alterAll s.tsu.scanners (·.track s.frozen)
  let t : State := { s with tsu := { s.tsu with scanners := new, updatedAt := some s.tbu.cycle } }
  if someFault (s.tsu.scanners.toList.map (·.service)) (new.toList.map (·.service)) then t.faultEntered
  else t

/-- 100 ms have passed with no accepted sample on an in-service link (R18). -/
def State.linkDue (s : State) (l : Fin 4) : Bool :=
  (s.tsu.scanners.get l).service == .inService && s.ran (s.tsu.scanners.get l).linkTimer 1000000

/-- A scanner enters FAULTED:LINK (R18). -/
def State.unlink (s : State) (l : Fin 4) : State :=
  (s.alterScanner l (fun c => { c with service := .link })).faultEntered

/-! ### Timebase (R20 to R23) -/

/-- A second pulse comes `c` cycles after the previous one within the accepted range (R21). -/
def pulseAccepted (c : Nat) : Bool := 9800000 ≤ c && c ≤ 10200000

/-- The TBU after a second pulse at its present cycle (R21). -/
def Timebase.pulse (t : Timebase) : Timebase :=
  match t.prevPulse with
  | none => { t with prevPulse := some t.cycle }
  | some p =>
    let c := elapsed p t.cycle
    if pulseAccepted c then
      { t with prevPulse := some t.cycle, rate := c, trim := .trimmed, lastAccepted := some t.cycle }
    else { t with prevPulse := some t.cycle }

/-- 3 s have passed since the last accepted pulse while TRIMMED (R22). -/
def State.trimDue (s : State) : Bool :=
  s.tbu.trim == .trimmed && s.tbu.lastAccepted.any (fun t => s.ran t 30000000)

/-- The trim state becomes LOST (R22). -/
def State.loseTrim (s : State) : State :=
  (State.raise { s with tbu := { s.tbu with trim := .lost } } .sensor).markUntrimmed

/-- The accumulator has reached F (R23). -/
def State.millisecondDue (s : State) : Bool := s.tbu.rateInForce ≤ s.tbu.accumulator

/-- One millisecond of site time passes (R23). -/
def Timebase.millisecond (t : Timebase) : Timebase :=
  { t with accumulator := t.accumulator - t.rateInForce, siteTime := t.siteTime + 1 }

/-! ### Commands -/

/-- ELEMENT_EDGE (R3): a level that differs from the decoder's and has held for 2,000 cycles is an accepted
edge, timed at its transition (R4 to R7). -/
def execElementEdge (now : Cycle) (det : Det) (element : Element) (covered : Bool) (since : Cycle)
    (s : State) : Out :=
  event now s fun s =>
    if (s.detector det).decoder.covers element ≠ covered ∧ s.levelHeld since elementFilter then
      s.takeEdge det element covered since
    else s

/-- STUCK_TIMER_EXPIRY (R7). -/
def execStuckTimerExpiry (now : Cycle) (det : Det) (s : State) : Out :=
  event now s fun s => if s.stuckDue det then s.stick det else s

/-- POINT_COMPLETE (R9): the next point of the input is complete and is built of N raw samples. -/
def execPointComplete (now : Cycle) (input : Fin 16) (samples : List Sample) (s : State) : Out :=
  event now s fun s =>
    if samples.length = s.site.settings.averaging ∧ s.pointDue input then
      s.writePoint input (pointOf samples)
    else s

/-- BASELINE_UPDATE (R11, R12). -/
def execBaselineUpdate (now : Cycle) (s : State) : Out :=
  event now s fun s => if s.baselineDue then s.updateBaselines else s

/-- FLAT_RUN_EXPIRY (R13). -/
def execFlatRunExpiry (now : Cycle) (input : Fin 16) (s : State) : Out :=
  event now s fun s => if s.flatDue input then s.flatten input else s

/-- SCANNER_FRAME (R16 to R18): a frame whose check fails is discarded and counts as no sample. -/
def execScannerFrame (now : Cycle) (link : Fin 4) (sample : Sample) (check : Byte) (s : State) : Out :=
  event now s fun s =>
    if check = Config.scannerCheck sample then s.alterScanner link (·.arrive sample s.tbu.cycle) else s

/-- SLOT_COMPLETE (R16). -/
def execSlotComplete (now : Cycle) (s : State) : Out :=
  event now s fun s => if s.slotDue then s.completeSlots else s

/-- AMBIENT_UPDATE (R17, R18). -/
def execAmbientUpdate (now : Cycle) (s : State) : Out :=
  event now s fun s => if s.ambientDue then s.updateAmbients else s

/-- LINK_TIMER_EXPIRY (R18). -/
def execLinkTimerExpiry (now : Cycle) (link : Fin 4) (s : State) : Out :=
  event now s fun s => if s.linkDue link then s.unlink link else s

/-- SECOND_PULSE (R21). -/
def execSecondPulse (now : Cycle) (s : State) : Out :=
  event now s fun s => { s with tbu := s.tbu.pulse }

/-- TRIM_LOST (R22). -/
def execTrimLost (now : Cycle) (s : State) : Out :=
  event now s fun s => if s.trimDue then s.loseTrim else s

/-- MILLISECOND_TICK (R23). -/
def execMillisecondTick (now : Cycle) (s : State) : Out :=
  event now s fun s =>
    if s.millisecondDue then { s with tbu := s.tbu.millisecond } else s

end Sys2Proof.Machine
end

