-- ==== Sys2Proof/Machine/LiveView.lean ====
section
/-!
DEFINITION. The Live View Unit (section 9.5), and the commands LIVE_REFRESH, HOLD_LIVE, RELEASE_LIVE and
HOLD_TIMER_EXPIRY.
-/

namespace Sys2Proof.Machine

open Sys2Proof

/-- The length of the hold timer, in cycles (R179). -/
def holdLength : Nat := 20000000

/-- A detector is occupied while its decoder is not CLEAR, whatever its service state (R4, R6). -/
def Detector.occupied (d : Detector) : Bool := d.decoder != .clear

/-- The three bits of a detector in the live view: its decoder state and its true occupancy (R196). -/
def detectorFields (s : State) (i : Fin 5) : List (Nat × Nat × Nat) :=
  let d := s.wdi.get i
  [(4 * i.val, 2, d.decoder.code), (4 * i.val + 2, 1, bit d.occupied)]

/-- The net point of a strain channel: its newest complete point less its integer baseline, or absent
(R178). -/
def StrainChannel.netPoint (c : StrainChannel) : Option Int :=
  match c.history, c.integerBaseline with
  | p :: _, some b => some (p.value - b)
  | _, _ => none

/-- The service states of the 25 channels by name, in the channel order of R171 with the classes one after
another (R196). -/
def State.services (s : State) : List Service :=
  s.wdi.toList.map (·.service) ++ (List.finRange 16).map (fun n => (s.strain n).service) ++
    (List.finRange 4).map (fun n => (s.scanner n).service)

/-- Bytes packed into words, four to a word, with zeros after the last. -/
def packBytes : List Nat → List Word
  | [] => []
  | [a] => [byteWord a 0 0 0]
  | [a, b] => [byteWord a b 0 0]
  | [a, b, c] => [byteWord a b c 0]
  | a :: b :: c :: d :: rest => byteWord a b c d :: packBytes rest

/-- The items of a refresh after the generation word (R178, R196). -/
def State.liveWords (s : State) : List Word :=
  let train (f : TrainRecord → Nat) : Nat := (s.openRecord.map f).getD 0
  [countWord s.tbu.rate, lowWord s.tbu.siteTime, highWord s.tbu.siteTime,
   lowWord s.tbu.cycle, highWord s.tbu.cycle,
   pack [(0, 2, s.tbu.trim.code), (8, 1, bit (s.site.mode == .watch)),
         (9, 1, bit s.site.latched), (16, 2, s.tt.tracker.code), (18, 1, train (·.dir.code))],
   pack ((List.finRange 5).flatMap (detectorFields s)),
   (s.openRecord.map (·.number)).getD 0,
   pack [(0, 16, train (·.f)), (16, 16, train (·.x))],
   countWord (train (·.overflow)),
   countWord (s.lvu.lastSpeed.getD 0),
   stopWord s.sli s.ab.demand, countsWord s.sli s.ab, s.site.latchCount, 0] ++
  (List.finRange 16).map (fun n => optSignedWord (s.strain n).netPoint) ++
  (List.finRange 4).map (fun n => optSignedWord ((s.scanner n).latest.map (·.toInt))) ++
  (List.finRange 4).map (fun n => optSignedWord (s.scanner n).integerAmbient) ++
  packBytes (s.services.map Service.code)

/-- The instant is a refresh instant, no hold is in force, and the refresh of this instant has not been
made (R177). -/
def State.refreshDue (s : State) : Bool :=
  s.tbu.cycle != 0 && s.tbu.cycle.toNat % updateInterval == 0 && s.lvu.hold.isNone &&
    decide (s.lvu.refreshedAt ≠ some s.tbu.cycle)

/-- A refresh: every item, and the generation, increased by one, as the last word (R177). -/
def State.refresh (s : State) : State :=
  let g := succCount s.lvu.generation
  let t := (s.put (liveBase + 4) s.liveWords).put liveBase [g]
  { t with lvu := { t.lvu with generation := g, refreshedAt := some s.tbu.cycle } }

/-- HOLD_LIVE takes effect: a hold is in force and its timer starts, or starts again (R179). That result word 2 is 0 is
the model's choice (notes/assumptions/44). -/
def State.startHold (s : State) (o : RunningOrder) : State :=
  State.finishRunning { s with lvu := { s.lvu with hold := some s.tbu.cycle } } o.slot .done
    s.lvu.generation 0

/-- RELEASE_LIVE takes effect: a hold ends without attention (R179). That result word 2 is 0 is the model's choice
(notes/assumptions/44). -/
def State.endHold (s : State) (o : RunningOrder) : State :=
  State.finishRunning { s with lvu := { s.lvu with hold := none } } o.slot .done
    (if s.lvu.hold.isSome then 1 else 0) 0

/-- The hold timer has run out (R179). -/
def State.holdTimerDue (s : State) : Bool := s.lvu.hold.any (fun t => s.ran t holdLength)

/-! ### Commands -/

/-- LIVE_REFRESH (R177, R178). -/
def execLiveRefresh (now : Cycle) (s : State) : Out :=
  event now s fun s => if s.refreshDue then s.refresh else s

/-- HOLD_LIVE (R179), at the completion of the running order (R166). -/
def execHoldLive (now : Cycle) (s : State) : Out :=
  event now s fun s => s.completing .holdLive s.startHold

/-- RELEASE_LIVE (R179), at the completion of the running order (R166). -/
def execReleaseLive (now : Cycle) (s : State) : Out :=
  event now s fun s => s.completing .releaseLive s.endHold

/-- HOLD_TIMER_EXPIRY (R179): the hold ends with LIVE_HOLD attention. -/
def execHoldTimerExpiry (now : Cycle) (s : State) : Out :=
  event now s fun s =>
    if s.holdTimerDue then State.raise { s with lvu := { s.lvu with hold := none } } .liveHold else s

end Sys2Proof.Machine
end

