-- ==== Sys2Proof/Machine/Orders.lean ====
section
/-!
DEFINITION. The Order Unit (sections 9.2 and 9.3): POST writes, the order queue, the take, and the order
kinds ATTACH_CONSIST, DROP_CONSIST, SET_TIME, PEEK_TRAIN, SET_CHANNEL_SERVICE and UNKNOWN_KIND.
-/

namespace Sys2Proof.Machine

open Sys2Proof

/-! ### Posting and taking (R163 to R165) -/

/-- A slot becomes QUEUED with its taken ticket, at the end of the order queue (R163, R164). -/
def State.enqueue (s : State) (n : Fin 16) (ticket : Word) : State :=
  State.alterSlot { s with ou := { s.ou with queue := s.ou.queue ++ [n] } } n
    (fun x => { x with state := .queued, outcome := .none, ticket := ticket })

/-- A QUEUED slot is withdrawn: it leaves the order queue from wherever it stands (R163, R164). -/
def State.withdraw (s : State) (n : Fin 16) : State :=
  State.alterSlot { s with ou := { s.ou with queue := s.ou.queue.filter (· != n) } } n
    (fun x => { x with state := .idle, outcome := .none })

/-- A DONE slot is taken back by the host (R163). -/
def State.takeBack (s : State) (n : Fin 16) : State :=
  s.alterSlot n (fun x => { x with state := .idle, outcome := .none })

/-- The OU takes a POST write, by the value written and the slot's state (R163). -/
def State.takePost (s : State) (n : Fin 16) (v : Word) : State :=
  match (s.ou.slots.get n).state, v == 0 with
  | .idle, false => s.enqueue n v
  | .queued, true => s.withdraw n
  | .done, true => s.takeBack n
  | _, _ => s

/-- The OU takes the slot at the head of the queue, with the kind and the arguments as they stand (R165). -/
def State.takeOrder (s : State) : State :=
  match s.ou.running, s.ou.queue with
  | none, n :: rest =>
    let word (k : Nat) : Word := s.mem.readWord (slotBase n + k)
    let o : RunningOrder :=
      { slot := n, kind := word 0x0C, arg1 := word 0x10, arg2 := word 0x14, arg3 := word 0x18
        arg4 := word 0x1C, takenAt := s.tbu.cycle }
    State.alterSlot { s with ou := { s.ou with queue := rest, running := some o } } n
      (fun x => { x with state := .running, outcome := .none })
  | _, _ => s

/-! ### Consist orders (R87 to R90) -/

/-- The words ATTACH_CONSIST answers with when it is taken: the vehicle count and the consist total
(R87). -/
def State.answerAttach (s : State) (o : RunningOrder) (replaced : Bool) (vs : List Vehicle) : State :=
  s.finishRunning o.slot (if replaced then .replaced else .done) (countWord vs.length)
    (countWord (consistTotal vs))

/-- The copied list goes into its target (R88, R89). -/
def State.attachTo (s : State) (o : RunningOrder) (t : Target) (vs : List Vehicle) : State :=
  match t with
  | .next => State.answerAttach { s with next := some vs } o s.next.isSome vs
  | .opened =>
    if !s.trainOpen then s.finishRunning o.slot .noTrain 0 0
    else match s.bufferIn .opened with
      | none => s.finishRunning o.slot .noBuffer 0 0
      | some b => (s.alterBuffer b (fun x => { x with consist := some vs })).answerAttach o
          (s.buffer b).consist.isSome vs

/-- The checks and the effect of ATTACH_CONSIST, in the order of R87. -/
def State.attach (s : State) (o : RunningOrder) : State :=
  let first := o.arg2.toNat
  let count := o.arg3.toNat
  if s.site.mode = .halt then s.finishRunning o.slot .notArmed 0 0
  else match targetOf o.arg1 with
    | none => s.finishRunning o.slot .badArgument 0 0
    | some t =>
      if count < 1 ∨ 256 < count then s.finishRunning o.slot .badArgument 0 0
      else if 512 < first + count then s.finishRunning o.slot .badArgument 0 0
      else match readVehicles s.mem first 1 count with
        | .error pos => s.finishRunning o.slot .badArgument (countWord pos) 0
        | .ok vs => s.attachTo o t vs

/-- The checks and the effect of DROP_CONSIST, in the order of R90. That both result words are 0 when it is DONE is the
model's choice (notes/assumptions/44). -/
def State.drop (s : State) (o : RunningOrder) : State :=
  match targetOf o.arg1 with
  | none => s.finishRunning o.slot .badArgument 0 0
  | some .next => State.finishRunning { s with next := none } o.slot .done 0 0
  | some .opened =>
    if !s.trainOpen then s.finishRunning o.slot .noTrain 0 0
    else match s.bufferIn .opened with
      | none => s.finishRunning o.slot .noBuffer 0 0
      | some b => (s.alterBuffer b (fun x => { x with consist := none })).finishRunning o.slot .done 0 0

/-! ### SET_TIME (R23, R172) -/

/-- Site time is set and the millisecond accumulator is 0 (R23). -/
def Timebase.setTime (t : Timebase) (v : SiteTime) : Timebase := { t with siteTime := v, accumulator := 0 }

/-- SET_TIME takes effect, and every hold window it brings to its end expires (R111, R172). -/
def State.setTime (s : State) (o : RunningOrder) : State :=
  let t : State := { s with tbu := s.tbu.setTime (joinWords o.arg1 o.arg2) }
  (t.finishRunning o.slot .done 0 0).expireDue

/-! ### PEEK_TRAIN (R170) -/

/-- The most axle records a PEEK_TRAIN copies (R170). -/
def peekMost : Nat := 12

/-- The entries a PEEK_TRAIN copies, with their indices (R170). -/
def peekAxles (axles : List AxleEntry) (first count : Nat) : List (AxleEntry × Nat) :=
  (axles.zipIdx.drop first).take count

/-- The result area: the axle records, and zeros in the rest (R170, R195). -/
def peekArea (shown : List (AxleEntry × Nat)) : List Word :=
  shown.flatMap (fun a => axleWords a.2 a.1) ++ List.replicate (8 * (peekMost - shown.length)) 0

/-- The summary block of the open train (R170, R195). -/
def State.peekSummary (s : State) (r : TrainRecord) : List Word :=
  match s.bufferIn .opened with
  | some b =>
    let x := s.buffer b
    summaryWords r (some b) (x.consist.map (·.length)) x.alarms.length x.unlistedEntries x.boardFull
  | none => summaryWords r none (s.tt.countOnly.bind (·.vehicles)) 0 0 false

/-- The axle table of the open train; a count-only train has none (R170). -/
def State.openAxles (s : State) : List AxleEntry := ((s.bufferIn .opened).map (fun b => (s.buffer b).axles)).getD []

/-- The checks and the effect of PEEK_TRAIN, in the order of R170. -/
def State.peek (s : State) (o : RunningOrder) : State :=
  let first := o.arg1.toNat
  let count := o.arg2.toNat
  if count < 1 ∨ peekMost < count then s.finishRunning o.slot .badArgument 0 0
  else if 1023 < first then s.finishRunning o.slot .badArgument 0 0
  else match s.openRecord with
    | none => s.finishRunning o.slot .noTrain 0 0
    | some r =>
      let shown := peekAxles s.openAxles first count
      ((s.put (slotBase o.slot + 0x40) (s.peekSummary r)).put (slotBase o.slot + 0x80)
        (peekArea shown)).finishRunning o.slot .done (countWord shown.length) (countWord r.entries)

/-! ### SET_CHANNEL_SERVICE (R1, R171) -/

/-- The service state after the order (R1). -/
def Service.ordered (into : Bool) : Service := if into then .inService else .outOfService

/-- A detector under the order (R1, R7, R8). -/
def Detector.serve (d : Detector) (into opened : Bool) (now : Cycle) : Detector :=
  if into then
    if d.service = .inService then d
    else
      { d with
        service := .inService
        entrySide := if d.decoder = .clear then d.entrySide else none
        stuckTimer := if d.decoder ≠ .clear ∧ opened = false then some now else none }
  else { d with service := .outOfService, stuckTimer := none }

/-- A strain input under the order (R1, R13): its flat run begins again at the next point. -/
def StrainChannel.serve (c : StrainChannel) (into : Bool) : StrainChannel :=
  if into ∧ c.service = .inService then c
  else { c with service := Service.ordered into, flatRun := none }

/-- A scanner link under the order (R1, R18): its link timer restarts when it enters IN_SERVICE. -/
def Scanner.serve (c : Scanner) (into : Bool) (now : Cycle) : Scanner :=
  if into then
    if c.service = .inService then c else { c with service := .inService, linkTimer := now }
  else { c with service := .outOfService }

/-- The service state of a named channel (R171). -/
def State.stateOf (s : State) : Channel → Service
  | .detector i => (s.wdi.get i).service
  | .strain n => (s.strain n).service
  | .scanner n => (s.scanner n).service

/-- The order's effect on a named channel (R1), with the change of tracking occupancy it brings (R6). -/
def State.serve (s : State) (c : Channel) (into : Bool) : State :=
  match c with
  | .detector i =>
    let d := detOf i
    (s.alterDetector d (fun x => x.serve into (s.tt.tracker = .opened) s.tbu.cycle)).afterOccupancy d
      (s.detector d).tracked
  | .strain n => s.alterStrain (strainInput s.site.settings.railSwap n) (·.serve into)
  | .scanner n =>
    s.alterScanner (scannerLink s.site.settings.railSwap n) (fun x => x.serve into s.tbu.cycle)

/-- The checks and the effect of SET_CHANNEL_SERVICE (R171). -/
def State.setService (s : State) (o : RunningOrder) : State :=
  match channelOf o.arg1 o.arg2, serviceOf o.arg3 with
  | some c, some into =>
    (s.serve c into).finishRunning o.slot .done (countWord (Service.ordered into).code)
      (countWord (s.stateOf c).code)
  | _, _ => s.finishRunning o.slot .badArgument 0 0

/-! ### Commands -/

/-- POST_WRITE (R160, R163): the value is stored in the host's own word, and the write is an event at the
OU. -/
def execPostWrite (now : Cycle) (slot : Fin 16) (value : Word) (s : State) : Out :=
  event now s fun s => (s.put (slotBase slot) [value]).takePost slot value

/-- ORDER_TAKE (R165). -/
def execOrderTake (now : Cycle) (s : State) : Out := event now s State.takeOrder

/-- ATTACH_CONSIST (R87 to R89), at the completion of the running order (R166). -/
def execAttachConsist (now : Cycle) (s : State) : Out :=
  event now s fun s => s.completing .attachConsist s.attach

/-- DROP_CONSIST (R90), at the completion of the running order (R166). -/
def execDropConsist (now : Cycle) (s : State) : Out :=
  event now s fun s => s.completing .dropConsist s.drop

/-- SET_TIME (R172), at the completion of the running order (R166). -/
def execSetTime (now : Cycle) (s : State) : Out :=
  event now s fun s => s.completing .setTime s.setTime

/-- PEEK_TRAIN (R170), at the completion of the running order (R166). -/
def execPeekTrain (now : Cycle) (s : State) : Out :=
  event now s fun s => s.completing .peekTrain s.peek

/-- SET_CHANNEL_SERVICE (R171), at the completion of the running order (R166). -/
def execSetChannelService (now : Cycle) (s : State) : Out :=
  event now s fun s => s.completing .setChannelService s.setService

/-- UNKNOWN_KIND (R167): a running order of an unlisted kind completes with no effect. -/
def execUnknownKind (now : Cycle) (s : State) : Out :=
  event now s fun s =>
    match s.ou.running with
    | some o => if orderKindOf o.kind = none then s.finishRunning o.slot .unknownKind 0 0 else s
    | none => s

end Sys2Proof.Machine
end

