-- ==== Sys2Proof/Machine/Site.lean ====
section
/-!
DEFINITION. The site mode machine and the configuration latch (chapter 10), the resets (R190, R191, R200),
and the commands ARM, WAITING_ARM_LATCH, DISARM, WAITING_DISARM_COMPLETE, SITE_RESET, FULL_RESET and
POWER_RESET.
-/

namespace Sys2Proof.Machine

open Sys2Proof

/-! ### The latch (R186) -/

/-- The first multiple of `step` at or after `n`, counted in steps. -/
def stepsUpTo (n step : Nat) : Nat := (n + step - 1) / step

/-- A strain input after a change of N (R14): an empty history, no flat run, and the next point is the one
that begins at the first multiple of the new cpp at or after the latch. -/
def StrainChannel.restart (c : StrainChannel) (next : Nat) : StrainChannel :=
  { c with history := [], flatRun := none, next := next }

/-- A change of N at a latch (R14). -/
def State.averagingAtLatch (s : State) (old : Settings) : State :=
  if old.averaging = s.site.settings.averaging then s
  else
    let next := stepsUpTo s.tbu.cycle.toNat s.site.settings.cyclesPerPoint
    { s with
      sau := { s.sau with channels := alterAll s.sau.channels (·.restart next) }
      se := { s.se with lastEnd := Vector.replicate 16 none } }

/-- The detectors whose stuck timers have passed the new limit enter their fault at the latch (R7). -/
def State.stuckAtLatch (s : State) : State :=
  (List.finRange 5).foldl (fun s i => if s.stuckDue (detOf i) then s.stick (detOf i) else s) s

/-- A running approach timer expires at the latch if its elapsed time already exceeds the new timeout
(R25). -/
def State.approachAtLatch (s : State) : State :=
  match s.tt.tracker with
  | .approach a =>
    if secondsToCycles s.site.settings.approachTimeout < elapsed a.timer s.tbu.cycle then
      s.enterTracker .idle
    else s
  | _ => s

/-- The site mode machine at a latch (R186). -/
def Site.latch (x : Site) (c : Settings) : Site :=
  { mode := .watch, latched := true, settings := c, latchCount := x.latchCount + 1 }

/-- A latch: a checked configuration becomes the working configuration, and each block takes the new
values (R186). -/
def State.latch (s : State) (c : Settings) : State :=
  let old := s.site.settings
  let s := State.showSite { s with site := s.site.latch c }
  (((s.averagingAtLatch old).stuckAtLatch.approachAtLatch).lineAtLatch).marksAtLatch old

/-! ### ARM (R183 to R187) -/

/-- A mode order is parked as WAITING; no outcome is written and no order is RUNNING (R168). -/
def State.park (s : State) (n : Fin 16) (w : WaitingOrder) : State :=
  State.alterSlot { s with ou := { s.ou with running := none, waiting := some w } } n
    (fun x => { x with state := .waiting, outcome := .none })

/-- An ARM whose candidate has passed every check (R185). -/
def State.armChecked (s : State) (o : RunningOrder) (candidate : Settings) (clampSet : Word) : State :=
  if s.trainsBusy then s.park o.slot (.arm o.slot candidate clampSet)
  else (s.latch candidate).finishRunning o.slot .done 0 clampSet

/-- The checks and the effect of ARM (R168, R183 to R185). -/
def State.arm (s : State) (o : RunningOrder) : State :=
  if s.ou.waiting.isSome then s.finishRunning o.slot .busy 0 0
  else
    let written := readCandidate s.mem
    let candidate := clampSettings written
    match failingField candidate with
    | some k => s.finishRunning o.slot .badConfig (countWord k) 0
    | none => s.armChecked o candidate (clampSetOf written)

/-- The waiting order completes (R168, R187, R189); from then on another mode order may wait. -/
def State.finishWaiting (s : State) (n : Fin 16) (r2 : Word) : State :=
  let t := s.finishSlot n .done 0 r2
  { t with ou := { t.ou with waiting := none } }

/-- The waiting ARM latches when no train is OPEN and no buffer is CLOSING (R187). -/
def State.armWaited (s : State) : State :=
  match s.ou.waiting with
  | some (.arm n candidate clampSet) =>
    if s.trainsBusy then s else (s.latch candidate).finishWaiting n clampSet
  | _ => s

/-! ### DISARM (R188, R189) -/

/-- The site goes to HALT (R188). -/
def State.halt (s : State) : State := State.showSite { s with site := { s.site with mode := .halt } }

/-- DISARM closes the open train CUT_SHORT (R42, R188): it waits on the train's buffer, unless the train is
count-only or the buffer has already left CLOSING. -/
def State.disarmOpen (s : State) (o : RunningOrder) : State :=
  let t := s.halt.closeTrain .cutShort
  match s.bufferIn .opened with
  | some b =>
    if (t.buffer b).state = .closing then t.park o.slot (.disarm o.slot b)
    else t.finishRunning o.slot .done 0 0
  | none => t.finishRunning o.slot .done 0 0

/-- The rows of R188, in order. That both result words are 0 when it is DONE in WATCH is the model's choice
(notes/assumptions/44). -/
def State.disarm (s : State) (o : RunningOrder) : State :=
  if s.ou.waiting.isSome then s.finishRunning o.slot .busy 0 0
  else match s.site.mode, s.tt.tracker with
    | .halt, _ => s.finishRunning o.slot .done 0 0
    | .watch, .idle => s.halt.finishRunning o.slot .done 0 0
    | .watch, .approach _ => (s.halt.enterTracker .idle).finishRunning o.slot .done 0 0
    | .watch, .opened => s.disarmOpen o

/-- The waiting DISARM completes when its buffer has left CLOSING (R189). -/
def State.disarmWaited (s : State) : State :=
  match s.ou.waiting with
  | some (.disarm n b) => if (s.buffer b).state = .closing then s else s.finishWaiting n 0
  | _ => s

/-! ### Resets (R190, R191, R200) -/

/-- A slot's order ends ABORTED at a site reset (R169). -/
def State.abortSlot (s : State) (n : Fin 16) : State :=
  match (s.ou.slots.get n).state with
  | .idle | .done => s
  | _ => s.finishSlot n .aborted 0 0

/-- Every QUEUED, RUNNING and WAITING order ends ABORTED, in the order of the slots, which is the model's choice
(notes/assumptions/49), and the order queue is empty (R169). -/
def State.abortOrders (s : State) : State :=
  let t := (List.finRange 16).foldl State.abortSlot s
  { t with ou := { t.ou with queue := [], running := none, waiting := none } }

/-- A site reset reaches every block (R190): the AB commits its PENDING records (R121), the SE drops its
work (R54), the TT drops the open train and finishes every CLOSING buffer in train order (R47), the OU
aborts its orders (R169), and a live hold ends (R180). -/
def State.siteReset (s : State) : State :=
  let s := s.commitPending.abandonSettlements.dropTrain
  let s := s.closingBuffers.foldl State.closeBuffer s
  let s := s.abortOrders
  { s with lvu := { s.lvu with hold := none } }

/-- The exchange memory after a full reset (R161): the listed areas are zeroed, and the site header shows
*high armed* set. -/
def Memory.fullReset (m : Memory) : Memory :=
  (resetAreas.foldl (fun m a => m.zero a.1 a.2) m).writeBytes (headerBase + 0x1A) [1]

/-- A full reset (R191): every block returns to its full-reset state. The queue of waiting commands, the
pins and the bus belong to the outside and stay. -/
def State.fullReset (s : State) : State :=
  { State.reset with
    pending := s.pending, mem := s.mem.fullReset, power := s.power, bus := s.bus }

/-- The supplies lie inside their operating ranges, in millivolts (R200). -/
def suppliesGood (core io : Nat) : Bool := 1140 ≤ core && core ≤ 1260 && 3000 ≤ io && io ≤ 3600

/-- The exchange memory lies below this byte address (R157). -/
def memorySize : Nat := 0x40000

/-- The memory after a loss of supply (R191): free contents, inside the exchange memory. -/
def lostMemory (n : Nat) : Memory :=
  Memory.storeAll [] ((Config.powerOnContents n).filter (fun c => c.1 < memorySize))

/-- The reset pin and the supplies as they now stand (R200). -/
def Power.set (p : Power) (resetN : Bool) (core io : Nat) : Power :=
  { p with resetN := resetN, vddCore := core, vddIo := io }

/-- The part goes into, or stays in, the hold in full reset (R200). -/
def State.holdReset (s : State) (resetN : Bool) (core io : Nat) : State :=
  let t := s.fullReset
  { t with
    mem := s.mem
    power := { s.power.set resetN core io with
      held := true, supplyLost := (s.power.held && s.power.supplyLost) || !suppliesGood core io } }

/-- The hold ends, and the full reset of R191 is taken (R200). After a loss of supply the memory holds what
it takes at power-on. -/
def State.release (s : State) (resetN : Bool) (core io : Nat) : State :=
  let p := s.power.set resetN core io
  let s : State :=
    if s.power.supplyLost then
      { s with mem := lostMemory s.power.losses
               power := { p with held := false, supplyLost := false, losses := p.losses + 1 } }
    else { s with power := { p with held := false } }
  s.fullReset

/-! ### Commands -/

/-- ARM (R183 to R185), at the completion of the running order (R166). -/
def execArm (now : Cycle) (s : State) : Out := event now s fun s => s.completing .arm s.arm

/-- WAITING_ARM_LATCH (R187). -/
def execWaitingArmLatch (now : Cycle) (s : State) : Out := event now s State.armWaited

/-- DISARM (R188), at the completion of the running order (R166). -/
def execDisarm (now : Cycle) (s : State) : Out := event now s fun s => s.completing .disarm s.disarm

/-- WAITING_DISARM_COMPLETE (R189). -/
def execWaitingDisarmComplete (now : Cycle) (s : State) : Out := event now s State.disarmWaited

/-- SITE_RESET (R190). -/
def execSiteReset (now : Cycle) (s : State) : Out := event now s State.siteReset

/-- FULL_RESET (R191). -/
def execFullReset (now : Cycle) (s : State) : Out := event now s State.fullReset

/-- POWER_RESET (R200): the reset pin and the supplies as they now stand hold the part in full reset, or
end the hold with the full reset of R191, or leave the part running. -/
def execPowerReset (now : Cycle) (resetN : Bool) (core io : Nat) (s : State) : Out :=
  if resetN && suppliesGood core io then
    if s.power.held then .next (s.release resetN core io)
    else .next { s.advance now with power := s.power.set resetN core io }
  else .next (s.holdReset resetN core io)

end Sys2Proof.Machine
end

