-- ==== Sys2Proof/Machine/HostAccess.lean ====
section
/-!
DEFINITION. The registers and the plain host accesses (section 9.1, R173 to R176), and the commands
ATTN_READ, ATTN_MASK_WRITE, DROPPED_WRITE and HOST_STORE.
-/

namespace Sys2Proof.Machine

open Sys2Proof

/-- IDENT: part code 0x7240 and revision code 0x02 (R192, R194). -/
def identWord : Word := 0x00027240

/-- What a host read of a word address returns (R157, R159). A read of ATTN is the command ATTN_READ; this
is the word it finds. -/
def State.hostRead (s : State) (addr : BusAddr) : Word :=
  let o := 4 * addr.toNat
  if o < memorySize then s.mem.readWord o
  else if o = 0x40000 then identWord
  else if o = 0x40004 then s.atu.visible.setWidth 32
  else if o = 0x40008 then s.atu.mask.setWidth 32
  else 0

/-- ATTN_READ (R175): the causes that are pending and unmasked are returned and cleared. -/
def execAttnRead (now : Cycle) (s : State) : Out :=
  event now s fun s =>
    { s with bus := s.atu.visible.setWidth 32
             atu := { s.atu with pending := s.atu.pending &&& ~~~s.atu.visible } }

/-- ATTN_MASK_WRITE (R176): every enable is replaced, and bits 8 to 31 are ignored (R194). -/
def execAttnMaskWrite (now : Cycle) (value : Word) (s : State) : Out :=
  event now s fun s => { s with atu := { s.atu with mask := value.setWidth 8 } }

/-- DROPPED_WRITE (R157, R159): a host write to a word or register the host may not write, or of another
code to SITE_CTRL. The word keeps its content, no event is made and no attention is raised. -/
def execDroppedWrite (now : Cycle) (_addr : BusAddr) (_value : Word) (s : State) : Out :=
  event now s fun s => s

/-- HOST_STORE (R160): a host write to a host-writable word that is not watched is a store. A write to any
other word is not this command and stores nothing. -/
def execHostStore (now : Cycle) (addr : BusAddr) (value : Word) (s : State) : Out :=
  event now s fun s =>
    if hostWord addr = .store then s.put (4 * addr.toNat) [value] else s

end Sys2Proof.Machine
end

