-- ==== Sys2Proof/Machine/Tick.lean ====
section
/-!
DEFINITION. What the part does of itself while no command waits (notes/assumptions/2): an event of its own
that is due at the present cycle, and otherwise the passing of one cycle.
-/

namespace Sys2Proof.Machine

open Sys2Proof

/-- A command, when its condition holds. -/
def when_ (due : Bool) (c : Instr) : List Instr := if due then [c] else []

/-- The events of the front end and the timebase that are due (chapter 1). -/
def State.dueFrontEnd (s : State) (now : Cycle) : List Instr :=
  when_ s.millisecondDue (.millisecondTick now) ++
  when_ s.slotDue (.slotComplete now) ++
  when_ s.baselineDue (.baselineUpdate now) ++
  when_ s.ambientDue (.ambientUpdate now) ++
  (List.finRange 5).flatMap (fun i => when_ (s.stuckDue (detOf i)) (.stuckTimerExpiry now (detOf i))) ++
  (List.finRange 16).flatMap (fun i => when_ (s.flatDue i) (.flatRunExpiry now i)) ++
  (List.finRange 4).flatMap (fun l => when_ (s.linkDue l) (.linkTimerExpiry now l)) ++
  when_ s.trimDue (.trimLost now)

/-- The timers of the tracker that are due (chapter 2). -/
def State.dueTracker (s : State) (now : Cycle) : List Instr :=
  when_ s.approachDue (.approachTimeout now) ++
  when_ s.quietDue (.quietTimeout now) ++
  when_ s.openLimitDue (.openLimitExpiry now)

/-- The SE may take the next request of its queue (R49). -/
def State.takeDue (s : State) : Bool := s.se.inFlight.isNone && decide (s.se.queue ≠ [])

/-- The settlement in flight can be extracted (R50). -/
def State.extractionDue (s : State) : Bool :=
  s.se.inFlight.any (fun f => f.extracted.isNone && s.windowsComplete f)

/-- The bound of a settlement's completion has come: 10,000 cycles after its extraction (R50). -/
def State.settlementBound (s : State) : Bool :=
  s.se.inFlight.any (fun f => f.extracted.any (fun x => s.ran x.instant 10000))

/-- The steps of settlements and closes that are due (chapters 2 and 3). -/
def State.dueSettlement (s : State) (now : Cycle) : List Instr :=
  when_ s.takeDue (.settlementTake now) ++
  when_ s.extractionDue (.extraction now) ++
  when_ s.settlementBound (.settlementComplete now) ++
  (List.finRange 4).flatMap (fun b => when_ (s.closeDue b) (.closeComputations now b))

/-- The hold windows and the stop line timers that are due (chapters 6 and 7). -/
def State.dueAlarms (s : State) (now : Cycle) : List Instr :=
  (List.finRange 32).flatMap (fun p => when_ (s.holdDue p) (.holdExpiry now p)) ++
  when_ s.ackDue (.ackTimeout now) ++
  when_ s.pulseDue (.pulseTimerExpiry now) ++
  when_ s.listenDue (.listenTimerExpiry now)

/-- The bound of a report write's completion has come: 100,000 cycles after its start (R147). -/
def State.writeBound (s : State) : Bool :=
  s.rpw.write.any (fun w => s.ran w.startedAt 100000) && decide (s.rpw.held ≠ [])

/-- The steps of reports that are due (chapter 8). -/
def State.dueReports (s : State) (now : Cycle) : List Instr :=
  when_ s.writable.isSome (.reportWriteStart now) ++
  when_ s.writeBound (.reportWriteComplete now)

/-- The command that completes an order of a kind word (section 9.3). -/
def completionOf (kind : Word) (now : Cycle) : Instr :=
  match orderKindOf kind with
  | some .arm => .arm now
  | some .disarm => .disarm now
  | some .setTime => .setTime now
  | some .attachConsist => .attachConsist now
  | some .dropConsist => .dropConsist now
  | some .decideAlarm => .decideAlarm now
  | some .clearStop => .clearStop now
  | some .holdLive => .holdLive now
  | some .releaseLive => .releaseLive now
  | some .peekTrain => .peekTrain now
  | some .setChannelService => .setChannelService now
  | none => .unknownKind now

/-- The completion of the running order, when its bound has come: 10,000 cycles after its take (R166). -/
def State.orderBound (s : State) (now : Cycle) : List Instr :=
  match s.ou.running with
  | some o => when_ (s.ran o.takenAt 10000) (completionOf o.kind now)
  | none => []

/-- The waiting ARM may latch (R187). -/
def State.latchDue (s : State) : Bool :=
  match s.ou.waiting with
  | some (.arm _ _ _) => !s.trainsBusy
  | _ => false

/-- The waiting DISARM may complete (R189). -/
def State.disarmDue (s : State) : Bool :=
  match s.ou.waiting with
  | some (.disarm _ b) => (s.buffer b).state != .closing
  | _ => false

/-- The OU may take the next order (R165). -/
def State.orderTakeDue (s : State) : Bool := s.ou.running.isNone && decide (s.ou.queue ≠ [])

/-- The steps of orders, modes and the live view that are due (chapters 9 and 10). -/
def State.dueOrders (s : State) (now : Cycle) : List Instr :=
  when_ s.latchDue (.waitingArmLatch now) ++
  when_ s.disarmDue (.waitingDisarmComplete now) ++
  when_ s.orderTakeDue (.orderTake now) ++
  s.orderBound now ++
  when_ s.holdTimerDue (.holdTimerExpiry now) ++
  when_ s.refreshDue (.liveRefresh now)

/-- Every event of the part's own that is due at the present cycle; none while it is held in full
reset (R200). -/
def State.dueCommands (s : State) : List Instr :=
  let now := s.tbu.cycle
  if s.power.held then []
  else s.dueFrontEnd now ++ s.dueTracker now ++ s.dueSettlement now ++ s.dueAlarms now ++
    s.dueReports now ++ s.dueOrders now

/-- The event the part takes next of itself, if one is due. -/
def State.dueCommand (s : State) : Option Instr := s.dueCommands.head?

/-- One cycle passes; while the part is held in full reset no cycle is counted (R200). -/
def State.passCycle (s : State) : State :=
  if s.power.held then s else s.advance (s.tbu.cycle + 1)

end Sys2Proof.Machine
end

