-- ==== Sys2Proof/Machine/Dispatch.lean ====
section
/-!
DEFINITION. The effect of every command: one arm for each constructor of Instr.
-/

namespace Sys2Proof.Machine

open Sys2Proof

def exec (i : Instr) (s : State) : Host.Outcome State Fault Refusal :=
  match i with
  | .elementEdge now det element covered since => Sys2Proof.Machine.execElementEdge now det element covered since s
  | .stuckTimerExpiry now det => Sys2Proof.Machine.execStuckTimerExpiry now det s
  | .pointComplete now input samples => Sys2Proof.Machine.execPointComplete now input samples s
  | .baselineUpdate now => Sys2Proof.Machine.execBaselineUpdate now s
  | .flatRunExpiry now input => Sys2Proof.Machine.execFlatRunExpiry now input s
  | .scannerFrame now link sample check => Sys2Proof.Machine.execScannerFrame now link sample check s
  | .slotComplete now => Sys2Proof.Machine.execSlotComplete now s
  | .ambientUpdate now => Sys2Proof.Machine.execAmbientUpdate now s
  | .linkTimerExpiry now link => Sys2Proof.Machine.execLinkTimerExpiry now link s
  | .secondPulse now => Sys2Proof.Machine.execSecondPulse now s
  | .trimLost now => Sys2Proof.Machine.execTrimLost now s
  | .millisecondTick now => Sys2Proof.Machine.execMillisecondTick now s
  | .approachTimeout now => Sys2Proof.Machine.execApproachTimeout now s
  | .quietTimeout now => Sys2Proof.Machine.execQuietTimeout now s
  | .openLimitExpiry now => Sys2Proof.Machine.execOpenLimitExpiry now s
  | .settlementTake now => Sys2Proof.Machine.execSettlementTake now s
  | .extraction now => Sys2Proof.Machine.execExtraction now s
  | .settlementComplete now => Sys2Proof.Machine.execSettlementComplete now s
  | .closeComputations now buffer => Sys2Proof.Machine.execCloseComputations now buffer s
  | .holdExpiry now position => Sys2Proof.Machine.execHoldExpiry now position s
  | .ackEdge now level since => Sys2Proof.Machine.execAckEdge now level since s
  | .ackTimeout now => Sys2Proof.Machine.execAckTimeout now s
  | .pulseTimerExpiry now => Sys2Proof.Machine.execPulseTimerExpiry now s
  | .listenTimerExpiry now => Sys2Proof.Machine.execListenTimerExpiry now s
  | .reportWriteStart now => Sys2Proof.Machine.execReportWriteStart now s
  | .reportWriteComplete now => Sys2Proof.Machine.execReportWriteComplete now s
  | .releaseWrite now value => Sys2Proof.Machine.execReleaseWrite now value s
  | .postWrite now slot value => Sys2Proof.Machine.execPostWrite now slot value s
  | .orderTake now => Sys2Proof.Machine.execOrderTake now s
  | .arm now => Sys2Proof.Machine.execArm now s
  | .waitingArmLatch now => Sys2Proof.Machine.execWaitingArmLatch now s
  | .disarm now => Sys2Proof.Machine.execDisarm now s
  | .waitingDisarmComplete now => Sys2Proof.Machine.execWaitingDisarmComplete now s
  | .setTime now => Sys2Proof.Machine.execSetTime now s
  | .attachConsist now => Sys2Proof.Machine.execAttachConsist now s
  | .dropConsist now => Sys2Proof.Machine.execDropConsist now s
  | .decideAlarm now => Sys2Proof.Machine.execDecideAlarm now s
  | .clearStop now => Sys2Proof.Machine.execClearStop now s
  | .holdLive now => Sys2Proof.Machine.execHoldLive now s
  | .releaseLive now => Sys2Proof.Machine.execReleaseLive now s
  | .peekTrain now => Sys2Proof.Machine.execPeekTrain now s
  | .setChannelService now => Sys2Proof.Machine.execSetChannelService now s
  | .unknownKind now => Sys2Proof.Machine.execUnknownKind now s
  | .attnRead now => Sys2Proof.Machine.execAttnRead now s
  | .attnMaskWrite now value => Sys2Proof.Machine.execAttnMaskWrite now value s
  | .siteReset now => Sys2Proof.Machine.execSiteReset now s
  | .fullReset now => Sys2Proof.Machine.execFullReset now s
  | .powerReset now resetN core io => Sys2Proof.Machine.execPowerReset now resetN core io s
  | .droppedWrite now addr value => Sys2Proof.Machine.execDroppedWrite now addr value s
  | .liveRefresh now => Sys2Proof.Machine.execLiveRefresh now s
  | .holdTimerExpiry now => Sys2Proof.Machine.execHoldTimerExpiry now s
  | .hostStore now addr value => Sys2Proof.Machine.execHostStore now addr value s

end Sys2Proof.Machine
end

