-- ==== Sys2Proof/WellFormed.lean ====
section
/-!
DEFINITION. Which operands a command may carry, by the rule of the manual that gives the command.
-/

namespace Sys2Proof

open Sys2Proof.Machine

/-- A level that has stood since `since` has held for `n` cycles at `now` (R3, R122). -/
def heldFor (n : Nat) (since now : Cycle) : Bool := decide (since.toNat + n ≤ now.toNat)

/-- A number of raw samples is one of the averaging factors (R9). -/
def averagingFactor (n : Nat) : Bool := n == 1 || n == 2 || n == 4 || n == 8

/-- A host write that is dropped (R157, R159): to a word or register the host may not write, or of another
code to SITE_CTRL. -/
def droppedBy (addr : BusAddr) (value : Word) : Bool :=
  hostWord addr == .dropped || (hostWord addr == .siteCtrl && value != 1 && value != 2)

/-- A command is well formed: an edge has held for its filter time (R3, R122), a point is built of 1, 2, 4 or
8 samples (R9), a store goes to a host-writable word that is not watched (R160), and a dropped write is one
that the manual drops (R157, R159). Every other command takes every operand of its type. -/
def WellFormed : Instr → Bool
  | .elementEdge now _ _ _ since => heldFor 2000 since now
  | .stuckTimerExpiry _ _ => true
  | .pointComplete _ _ samples => averagingFactor samples.length
  | .baselineUpdate _ => true
  | .flatRunExpiry _ _ => true
  | .scannerFrame _ _ _ _ => true
  | .slotComplete _ => true
  | .ambientUpdate _ => true
  | .linkTimerExpiry _ _ => true
  | .secondPulse _ => true
  | .trimLost _ => true
  | .millisecondTick _ => true
  | .approachTimeout _ => true
  | .quietTimeout _ => true
  | .openLimitExpiry _ => true
  | .settlementTake _ => true
  | .extraction _ => true
  | .settlementComplete _ => true
  | .closeComputations _ _ => true
  | .holdExpiry _ _ => true
  | .ackEdge now _ since => heldFor 10000 since now
  | .ackTimeout _ => true
  | .pulseTimerExpiry _ => true
  | .listenTimerExpiry _ => true
  | .reportWriteStart _ => true
  | .reportWriteComplete _ => true
  | .releaseWrite _ _ => true
  | .postWrite _ _ _ => true
  | .orderTake _ => true
  | .arm _ => true
  | .waitingArmLatch _ => true
  | .disarm _ => true
  | .waitingDisarmComplete _ => true
  | .setTime _ => true
  | .attachConsist _ => true
  | .dropConsist _ => true
  | .decideAlarm _ => true
  | .clearStop _ => true
  | .holdLive _ => true
  | .releaseLive _ => true
  | .peekTrain _ => true
  | .setChannelService _ => true
  | .unknownKind _ => true
  | .attnRead _ => true
  | .attnMaskWrite _ _ => true
  | .siteReset _ => true
  | .fullReset _ => true
  | .powerReset _ _ _ _ => true
  | .droppedWrite _ addr value => droppedBy addr value
  | .liveRefresh _ => true
  | .holdTimerExpiry _ => true
  | .hostStore _ addr _ => hostWord addr == .store

end Sys2Proof
end

