-- ==== Sys2Proof/Safety.lean ====
section
/-!
DEFINITION. What the manual says of the whole machine at all times: the invariants that claims use.
-/

namespace Sys2Proof.Machine

open Sys2Proof

/-- The exchange memory stands in its canonical form. -/
def State.MemoryCanonical (s : State) : Prop := s.mem.wf

/-- The bounds of R29 on a train's record: the front position stays between 0 and the number of entries, of
which there are at most 1024, the exit count stays between 0 and f, the overflow exit count between 0 and
overflow, and the staging deque holds at most 8 records. -/
def TrainRecord.Counted (r : TrainRecord) : Prop :=
  r.f ≤ r.entries ∧ r.entries ≤ 1024 ∧ r.x ≤ r.f ∧ r.overflowExit ≤ r.overflow ∧ r.staging.length ≤ 8

/-- Every train's record keeps the bounds of R29. -/
def State.CountsBounded (s : State) : Prop :=
  (∀ b : Fin 4, (s.buffer b).record.Counted) ∧ ∀ c, s.tt.countOnly = some c → c.record.Counted

/-- The SLI's demand copy is the board's stop demand (R117, R122). -/
def State.DemandHandedOn (s : State) : Prop := s.sli.demand = s.ab.demand

/-- No two records of the board carry the same key (R105). -/
def State.KeysDistinct (s : State) : Prop :=
  ∀ (p q : Fin 32) (r t : AlarmRecord), s.ab.positions.get p = some r → s.ab.positions.get q = some t →
    r.train = t.train → r.axle = t.axle → r.rail = t.rail → r.kind = t.kind → p = q

/-- The order queue holds exactly the QUEUED slots, each once (R164); the RUNNING and the WAITING order stand
in slots of those states, and a RUNNING or a WAITING slot is the one of that order (R165, R168). -/
def State.OrdersSound (s : State) : Prop :=
  s.ou.queue.Nodup ∧
  (∀ n : Fin 16, n ∈ s.ou.queue ↔ (s.ou.slots.get n).state = .queued) ∧
  (∀ n : Fin 16, (s.ou.slots.get n).state = .running ↔ s.ou.running.map (·.slot) = some n) ∧
  (∀ n : Fin 16, (s.ou.slots.get n).state = .waiting ↔
    s.ou.waiting.map (fun w => match w with | .arm k _ _ => k | .disarm k _ => k) = some n)

/-- The buffers whose reports stand in the held queue. -/
def Reports.bufferedReports (r : Reports) : List (Fin 4) := r.held.filterMap (·.buffer)

/-- The tracker is OPEN exactly while a train is open, which is in one place; with a train open no stuck timer
runs (R7); and the held queue names each buffer in HELD or WRITING once and no other, beside at most 8
stubs (R27, R141). -/
def State.BuffersSound (s : State) : Prop :=
  (s.tt.tracker = .opened ↔ s.trainOpen = true) ∧
  (∀ a b : Fin 4, (s.buffer a).state = .opened → (s.buffer b).state = .opened → a = b) ∧
  (s.tt.countOnly.isSome = true → s.bufferIn .opened = none) ∧
  (s.tt.tracker = .opened → ∀ d : Det, (s.detector d).stuckTimer = none) ∧
  s.rpw.bufferedReports.Nodup ∧
  (∀ b : Fin 4, b ∈ s.rpw.bufferedReports ↔
    ((s.buffer b).state = .held ∨ (s.buffer b).state = .writing)) ∧
  s.rpw.stubs ≤ 8

/-- The unreleased units are those of the journal index and never exceed 5,120, also with the units of a
write in flight (R144, R146). -/
def State.JournalBounded (s : State) : Prop :=
  s.rpw.unreleased = (s.rpw.index.map IndexEntry.units).sum ∧ s.rpw.unreleased ≤ 5120 ∧
  ∀ w, s.rpw.write = some w → s.rpw.unreleased + (w.filler + w.size) ≤ 5120

/-- Every step of the machine keeps a property: from every state that has it, a step that answers a next
state answers one that has it. -/
def KeptByEveryStep (P : State → Prop) : Prop := ∀ s t : State, P s → step s = .next t → P t

/-- The part is running: it is not held in full reset (R200). -/
abbrev State.Running (s : State) : Prop := s.power.held = false

/-- A level that began to stand at `since` has stood for at least `n` cycles of the counter, which starts from
0 at a full reset. -/
abbrev State.StoodFor (s : State) (since : Cycle) (n : Nat) : Prop := since.toNat + n ≤ s.tbu.cycle.toNat

/-- The decoder table of R4: state, element, covered (`true`) or uncovered, new state. -/
def decoderTable : List (DecoderState × Element × Bool × DecoderState) :=
  [(.clear, .e1, true, .oneW), (.clear, .e2, true, .oneE), (.oneW, .e2, true, .both),
   (.oneW, .e1, false, .clear), (.oneE, .e1, true, .both), (.oneE, .e2, false, .clear),
   (.both, .e1, false, .oneE), (.both, .e2, false, .oneW)]

/-- An in-service detector whose next uncovering edge ends a crossing in a direction, at the candidate `c`
(R4, R5). -/
abbrev Detector.AboutToCross (d : Detector) (dir : Dir) (c : Cycle) : Prop :=
  d.service = .inService ∧ d.candidate = some c ∧
    match dir with
    | .east => d.decoder = .oneE ∧ d.entrySide = some .west
    | .west => d.decoder = .oneW ∧ d.entrySide = some .east

/-- The element a wheel uncovers last when it crosses in a direction (section 1.2). -/
def lastElement : Dir → Element
  | .east => .e2
  | .west => .e1

/-- The entry gate and the exit gate of a direction (R26). -/
def entryGateOf : Dir → Det
  | .east => .g1
  | .west => .g3

/-- The exit gate of a direction (R26). -/
def exitGateOf : Dir → Det
  | .east => .g3
  | .west => .g1

/-- The units a report of `size` units needs from a write position, its own filler included (R146). -/
def unitsNeeded (position size : Nat) : Nat :=
  if position + size ≤ 5120 then size else 5120 - position + size

/-- An order of a kind is RUNNING, read at its take as `o`. -/
abbrev State.RunsOrder (s : State) (k : OrderKind) (o : RunningOrder) : Prop :=
  s.ou.running = some o ∧ orderKindOf o.kind = some k

/-- Every byte outside the part's own words in the head of a slot reads as before: the ticket and state words
at offsets 0x04 to 0x0B and the result words at 0x20 to 0x27 (R195). -/
def Memory.SameButSlot (m m' : Memory) (n : Fin 16) : Prop :=
  ∀ a : Nat, ¬(slotBase n + 0x04 ≤ a ∧ a < slotBase n + 0x0C) →
    ¬(slotBase n + 0x20 ≤ a ∧ a < slotBase n + 0x28) → m'.readByte a = m.readByte a

/-- Every byte outside a run of `n` bytes reads as before. -/
def Memory.SameOutside (m m' : Memory) (base n : Nat) : Prop :=
  ∀ a : Nat, a < base ∨ base + n ≤ a → m'.readByte a = m.readByte a

/-- The slot's own words of the memory show its state, its outcome, its ticket and its results (R195). -/
def State.ShowsSlot (s : State) (n : Fin 16) : Prop :=
  let x := s.ou.slots.get n
  s.mem.readWord (slotBase n + 0x08) = BitVec.ofNat 32 (x.state.code + 256 * x.outcome.code) ∧
  s.mem.readWord (slotBase n + 0x04) = x.ticket ∧
  s.mem.readWord (slotBase n + 0x20) = x.result1 ∧
  s.mem.readWord (slotBase n + 0x24) = x.result2

/-- From `b`, the state with the order's effect, an order of slot `n` has completed and nothing else has
changed (R166): the slot is DONE with the outcome and the results, shown in its words, and ORDER is
pending. -/
def State.CompletedSlot (b t : State) (n : Fin 16) (outcome : OrderOutcome) (r1 r2 : Word) : Prop :=
  t = { b with ou := t.ou, mem := t.mem, atu := t.atu } ∧
  t.ou.slots.get n =
    { b.ou.slots.get n with state := .done, outcome := outcome, result1 := r1, result2 := r2 } ∧
  (∀ k : Fin 16, k ≠ n → t.ou.slots.get k = b.ou.slots.get k) ∧
  t.ou.queue = b.ou.queue ∧
  t.atu = { b.atu with pending := b.atu.pending ||| 0x08#8 } ∧
  b.mem.SameButSlot t.mem n ∧ t.ShowsSlot n

/-- The running order `o` has completed, and no order is RUNNING from then on (R166). -/
def State.AnsweredFrom (b t : State) (o : RunningOrder) (outcome : OrderOutcome) (r1 r2 : Word) : Prop :=
  b.CompletedSlot t o.slot outcome r1 r2 ∧ t.ou.running = none ∧ t.ou.waiting = b.ou.waiting

/-! ### Words that the part shows (chapter 11) -/

/-- An item of a record: the index of its word, its lowest bit, its width and its value (R193). -/
abbrev Item := Nat × Nat × Nat × Nat

/-- The words of a record show its items and nothing else: an item stops at the largest value of its field, and
every bit that no item covers is 0 (R193). -/
def Memory.Shows (m : Memory) (base words : Nat) (items : List Item) : Prop :=
  ∀ k : Nat, k < words → (m.readWord (base + 4 * k)).toNat =
    ((items.filter (fun i => i.1 = k)).map (fun i => min i.2.2.2 (2 ^ i.2.2.1 - 1) * 2 ^ i.2.1)).sum

/-- A flag as the value of a one-bit item. -/
def flag (p : Prop) [Decidable p] : Nat := if p then 1 else 0

/-- The journal's words of the site header from 0x008 on (R154, R194). -/
def Reports.siteItems (r : Reports) : List Item :=
  [(0, 0, 32, r.accepted.toNat), (1, 0, 32, r.position), (2, 0, 32, r.oldest), (3, 0, 32, r.unreleased),
   (4, 0, 8, r.held.length), (4, 8, 8, r.stubs), (4, 16, 1, flag (r.highArmed = true)), (5, 0, 32, r.lost)]

/-! ### Trains (chapter 2) -/

/-- The detectors of a state with one of them replaced. -/
def State.detectorsWith (s : State) (det : Det) (x : Detector) (d : Det) : Detector :=
  if d = det then x else s.detector d

/-- The state with its detectors as given. -/
def State.withDetectors (s : State) (ds : Det → Detector) : State :=
  { s with wdi := Vector.ofFn (fun i => ds (detOf i)) }

/-- The state with one train buffer as given. -/
def State.withBuffer (s : State) (b : Fin 4) (x : Buffer) : State :=
  { s with tt := { s.tt with buffers := Vector.ofFn (fun a => if a = b then x else s.buffer a) } }

/-- A memory in which the site header shows HALT and the rest of the machine's site state, otherwise the machine's
(R181, R194). -/
def State.HaltShown (s : State) (m : Memory) : Prop :=
  s.mem.SameOutside m 0x20 8 ∧
  m.Shows 0x20 2 [(0, 0, 1, 0), (0, 1, 1, flag (s.site.latched = true)), (1, 0, 32, s.site.latchCount.toNat)]

/-- A detector that the last edge has returned to CLEAR: nothing is remembered, and no stuck timer runs (R4, R5,
R7). -/
def Detector.left (d : Detector) : Detector :=
  { d with decoder := .clear, entrySide := none, candidate := none, stuckTimer := none }

/-- A detector as the tracker enters IDLE or APPROACH: an occupied detector in service has a stuck timer,
started now unless it runs already (R7). -/
def Detector.supervised (d : Detector) (now : Cycle) : Detector :=
  { d with stuckTimer := if d.decoder ≠ .clear ∧ d.service = .inService then some (d.stuckTimer.getD now)
                         else d.stuckTimer }

/-- No gate is tracking-occupied (R6, R40). -/
abbrev GatesFree (ds : Det → Detector) : Prop :=
  ∀ g ∈ [Det.g1, .g2, .g3], (ds g).decoder = .clear ∨ (ds g).service ≠ .inService

/-- The quiet timer after a change of the gates' occupancy, `free` saying that no gate is then tracking-occupied: a
running timer is suspended with its remaining time, and a suspended one resumes with it (R41). -/
def QuietTimer.atGates (q : QuietTimer) (free : Prop) [Decidable free] (now : Cycle) : QuietTimer :=
  match q with
  | .running start left => if free then q else .suspended (left - (now - start).toNat)
  | .suspended left => if free then .running now left else q
  | .stopped | .forgone => q

/-- A detector after a service order IN or OUT, `opened` saying that the tracker is OPEN: under IN one in service goes
on as it is, and any other enters with an unknown entry side and a fresh stuck timer when it is occupied; under OUT
its stuck timer is cancelled (R1, R7, R8). -/
def Detector.afterOrder (d : Detector) (into : Bool) (opened : Prop) [Decidable opened] (now : Cycle) : Detector :=
  if into = false then { d with service := .outOfService, stuckTimer := none }
  else if d.service = .inService then d
  else if d.decoder = .clear then { d with service := .inService, stuckTimer := none }
  else { d with service := .inService, entrySide := none, stuckTimer := if opened then none else some now }

/-- The open train, in a buffer or, without one, in the count-only record, which has no axle table (R27). -/
def State.OpenTrain (s : State) (place : Option (Fin 4)) (r : TrainRecord) (axles : List AxleEntry) : Prop :=
  s.tt.tracker = .opened ∧
  match place with
  | some b => (∀ a : Fin 4, (s.buffer a).state = .opened ↔ a = b) ∧ s.tt.countOnly = none ∧
      (s.buffer b).record = r ∧ (s.buffer b).axles = axles
  | none => (∀ a : Fin 4, (s.buffer a).state ≠ .opened) ∧ s.tt.countOnly.map (·.record) = some r ∧ axles = []

/-- The state with the open train's record and axle table as given. -/
def State.withOpenTrain (s : State) (place : Option (Fin 4)) (r : TrainRecord) (axles : List AxleEntry) :
    State :=
  match place with
  | some b => s.withBuffer b { s.buffer b with record := r, axles := axles }
  | none => { s with tt := { s.tt with countOnly := s.tt.countOnly.map (fun c => { c with record := r }) } }

/-- The record of the open train, in its buffer or count-only, has been changed by `f`, and nothing else of the tracker
and its trains (R27, R29). -/
def State.OpenTrainMarked (s t : State) (f : TrainRecord → TrainRecord) : Prop :=
  (∀ b : Fin 4, s.bufferIn .opened = some b →
    t.tt = { s.tt with buffers := t.tt.buffers } ∧
    t.buffer b = { s.buffer b with record := f (s.buffer b).record } ∧
    ∀ a : Fin 4, a ≠ b → t.buffer a = s.buffer a) ∧
  (s.bufferIn .opened = none →
    t.tt = { s.tt with countOnly := s.tt.countOnly.map (fun c => { c with record := f c.record }) })

/-- A channel fault has been entered: SENSOR and no other cause is raised, and the open train has its *sensor fault*
mark (R1, R28). -/
def State.EntersFault (s t : State) : Prop :=
  t.atu = { s.atu with pending := s.atu.pending ||| 0x40#8 } ∧
  s.OpenTrainMarked t (fun r => { r with sensorFault := true })

/-- The quiet timer after a crossing at `det`, with the detectors then as `ds`: a gate crossing restarts it at the
full quiet timeout, running or suspended by the gates' occupancy (R41); another crossing leaves it alone, but
an expiry of its very instant does not happen (R40). -/
def State.quietAfter (s : State) (det : Det) (ds : Det → Detector) (q : QuietTimer) : QuietTimer :=
  let now := s.tbu.cycle
  let full := 10000000 * s.site.settings.quietTimeout
  if det = .apW ∨ det = .apE then
    match q with
    | .running since left => if (now - since).toNat = left then .forgone else q
    | _ => q
  else if q = .stopped then .stopped
  else if GatesFree ds then .running now full else .suspended full

/-- The open-limit timer after a crossing: it runs on, but an expiry of its very instant does not happen (R40,
R42). -/
def State.limitAfter (s : State) (start : Option Cycle) : Option Cycle :=
  match start with
  | some c => if (s.tbu.cycle - c).toNat = 10000000 * s.site.settings.openLimit then none else some c
  | none => none

/-- A train's record after a crossing at `det` that leaves it `r` but for its timers. -/
def State.timed (s : State) (det : Det) (ds : Det → Detector) (r : TrainRecord) : TrainRecord :=
  { r with quiet := s.quietAfter det ds r.quiet, openLimit := s.limitAfter r.openLimit }

/-- The close condition of a status holds of a record, `free` saying that no gate is tracking-occupied (the first
two rows of R40). -/
def TrainRecord.CloseHolds (r : TrainRecord) (free : Prop) : CloseStatus → Prop
  | .cleared => r.exitNet = ((r.f + r.overflow : Nat) : Int) ∧ 0 < r.f + r.overflow ∧ free
  | .withdrawn => r.f + r.overflow = 0 ∧ r.staging = [] ∧ r.entryNet ≤ 0
  | _ => False

/-- A record at its close: status and close time recorded, the timers cancelled, the staging deque discarded
(R43). -/
def TrainRecord.closedAs (r : TrainRecord) (status : CloseStatus) (time : SiteTime) : TrainRecord :=
  { r with closeTime := some time, status := some status, staging := [], quiet := .stopped, openLimit := none }

/-- A report placed in the held queue by train number: behind the reports that it is not below (R141), one exactly 2^31
away among them (notes/assumptions/48). -/
def placedByNumber (h : HeldReport) (held : List HeldReport) : List HeldReport :=
  held.takeWhile (fun x => !below h.header.number x.header.number) ++
    h :: held.dropWhile (fun x => !below h.header.number x.header.number)

/-- The header fields of a train's report at its join (R138), for a record, its axle entries and its alarm
entries. -/
def ReportHeader.OfTrain (h : ReportHeader) (r : TrainRecord) (axles : List AxleEntry)
    (alarms : List AlarmEntry) : Prop :=
  let speeds := axles.filterMap (·.speed)
  let loads := axles.filterMap (fun e => e.load.bind (fun l => if l.outOfRange then none else l.axleLoad))
  h.number = r.number ∧ h.dir = r.dir ∧ some h.status = r.status ∧ h.openTime = r.openTime ∧
  some h.closeTime = r.closeTime ∧ h.netAxles = r.f + r.overflow ∧ h.entries = r.entries ∧
  h.revisits = r.revisits ∧ h.skipped = r.skipped ∧
  h.speedMin = speeds.min? ∧ h.speedMax = speeds.max? ∧
  h.speedMean = (if speeds = [] then none
    else some ((speeds.sum + speeds.length / 2) / speeds.length)) ∧
  h.totalLoad = loads.sum ∧ h.unweighed = r.entries - loads.length + r.overflow ∧
  h.notes = alarms.countP (fun e => e.level == .note) ∧
  h.warns = alarms.countP (fun e => e.level == .warn) ∧
  h.stops = alarms.countP (fun e => e.level == .stop) ∧
  h.sensorFault = r.sensorFault ∧ h.untrimmed = r.untrimmed ∧ h.tableOverflow = r.tableOverflow ∧
  h.underrun = r.underrun ∧ h.phantom = r.phantom ∧ h.stagingOverflow = r.stagingOverflow ∧
  h.countDisagreement = r.countDisagreement ∧ h.substituted = r.substituted ∧ h.ambients = r.ambients

/-- From `s`, in which the open train has become `r` with `axles` and the detectors `ds`, the train closes with a
status and the machine is `t` (R43 to R45). The tracker is IDLE, TRAIN is pending and the stuck timers start.
A buffer is CLOSING while the SE holds a request of its train, and otherwise its CLOSE_COMPUTATIONS are done
at once. A count-only train's stub joins the held queue, or is counted as lost beside 8 stubs, and the site header shows
the journal with the counts as they then stand (R154). -/
def State.ClosesAs (s t : State) (ds : Det → Detector) (place : Option (Fin 4)) (r : TrainRecord)
    (axles : List AxleEntry) (status : CloseStatus) : Prop :=
  let now := s.tbu.cycle
  let closed := r.closedAs status s.tbu.siteTime
  let idle : State :=
    let u := s.withDetectors (fun d => (ds d).supervised now)
    { u with tt := { u.tt with tracker := .idle }, atu := { u.atu with pending := u.atu.pending ||| 0x20#8 } }
  match place with
  | some b =>
    let v := idle.withBuffer b { s.buffer b with state := .closing, record := closed, axles := axles }
    (s.se.holds r.number = true → t = v) ∧
    (s.se.holds r.number = false → exec (.closeComputations now b) v = .next t)
  | none =>
    t = { idle with tt := { idle.tt with countOnly := none }, mem := t.mem
                    rpw := { s.rpw with held := t.rpw.held, lost := t.rpw.lost } } ∧
    s.mem.SameOutside t.mem 0 0x20 ∧ t.mem.readWord 4 = s.mem.readWord 4 ∧
    t.mem.readWord 0 = s.rpw.lastWritten ∧ t.mem.Shows 8 6 t.rpw.siteItems ∧
    (8 ≤ s.rpw.stubs → t.rpw.held = s.rpw.held ∧ t.rpw.lost = min 65535 (s.rpw.lost + 1)) ∧
    (s.rpw.stubs < 8 → t.rpw.lost = s.rpw.lost ∧
      ∃ h ∈ t.rpw.held, t.rpw.held = placedByNumber h s.rpw.held ∧ h.buffer = none ∧
        h.fullSize = 2 ∧ h.summarySize = 2 ∧ h.header.OfTrain closed [] [] ∧
        h.header.unlisted = 0 ∧ h.header.boardFull = false ∧ h.header.mismatch = false ∧
        h.header.consistPresent = (s.tt.countOnly.bind (·.vehicles)).isSome ∧
        h.header.vehicleCount = (s.tt.countOnly.bind (·.vehicles)).getD 0)

/-- From `s`, in which the open train has become `r` with `axles` and the detectors `ds`, the close conditions of
R40 are evaluated and the machine is `t`: the train closes with the status whose condition holds, and with
none it stays open and nothing else has changed. -/
def State.TrainBecomes (s t : State) (ds : Det → Detector) (place : Option (Fin 4)) (r : TrainRecord)
    (axles : List AxleEntry) : Prop :=
  (∀ status ∈ [CloseStatus.cleared, .withdrawn], r.CloseHolds (GatesFree ds) status →
    s.ClosesAs t ds place r axles status) ∧
  ((∀ status ∈ [CloseStatus.cleared, .withdrawn], ¬r.CloseHolds (GatesFree ds) status) →
    t = (s.withDetectors ds).withOpenTrain place r axles)

/-! ### What the part does of itself -/

/-- The data of every window of a settlement is complete (R50, R74). -/
def State.WindowsComplete (s : State) (f : Settlement) : Prop :=
  (∀ (i : Nat) (w : Window), f.cribWindows[i]? = some w →
    w.hi < ((s.sau.channels.get (strainInput f.settings.railSwap (Fin.ofNat 16 i))).next : Int)) ∧
  ∀ w ∈ f.scanWindows, w.hi < (s.tsu.nextSlot : Int)

/-- The head of the held queue can be written (R145, R146). -/
def State.HeadFits (s : State) : Prop :=
  s.rpw.write = none ∧ ∃ (h : HeldReport) (rest : List HeldReport), s.rpw.held = h :: rest ∧
    (∀ b : Fin 4, (s.buffer b).state = .closing → below (s.buffer b).record.number h.header.number = false) ∧
    (unitsNeeded s.rpw.position h.fullSize ≤ 5120 - s.rpw.unreleased ∨
      h.buffer ≠ none ∧ unitsNeeded s.rpw.position h.summarySize ≤ 5120 - s.rpw.unreleased)

/-- An event of the part's own is due at the present cycle: the condition that the event's rule states, or the
end of the span the rule allows for a completion (notes/assumptions/2). Every other command comes from
outside. -/
def State.Due (s : State) (c : Instr) : Prop :=
  let now := s.tbu.cycle
  let set := s.site.settings
  let past (start : Cycle) (n : Nat) : Prop := n ≤ (now - start).toNat
  let running (k : Option OrderKind) : Prop :=
    ∃ o : RunningOrder, s.ou.running = some o ∧ orderKindOf o.kind = k ∧ past o.takenAt 10000
  match c with
  | .millisecondTick n => n = now ∧ s.tbu.rateInForce ≤ s.tbu.accumulator
  | .slotComplete n => n = now ∧ (s.tsu.nextSlot + 1) * 10000 ≤ now.toNat
  | .baselineUpdate n => n = now ∧ now.toNat % 100000 = 0 ∧ s.tt.tracker = .idle ∧ s.sau.updatedAt ≠ some now
  | .ambientUpdate n => n = now ∧ now.toNat % 1000000 = 0 ∧ s.tsu.updatedAt ≠ some now
  | .stuckTimerExpiry n d => n = now ∧ (s.detector d).service = .inService ∧
      ∃ t, (s.detector d).stuckTimer = some t ∧ 10000000 * set.stuckLimit < (now - t).toNat
  | .flatRunExpiry n i => n = now ∧ s.tt.tracker = .idle ∧ (s.sau.channels.get i).service = .inService ∧
      ∃ t, (s.sau.channels.get i).flatRun = some t ∧ past t 100000000
  | .linkTimerExpiry n l => n = now ∧ (s.tsu.scanners.get l).service = .inService ∧
      past (s.tsu.scanners.get l).linkTimer 1000000
  | .trimLost n => n = now ∧ s.tbu.trim = .trimmed ∧ ∃ t, s.tbu.lastAccepted = some t ∧ past t 30000000
  | .approachTimeout n => n = now ∧
      ∃ a, s.tt.tracker = .approach a ∧ past a.timer (10000000 * set.approachTimeout)
  | .quietTimeout n => n = now ∧
      ∃ r since left, s.openRecord = some r ∧ r.quiet = .running since left ∧ past since left
  | .openLimitExpiry n => n = now ∧
      ∃ r t, s.openRecord = some r ∧ r.openLimit = some t ∧ past t (10000000 * set.openLimit)
  | .settlementTake n => n = now ∧ s.se.inFlight = none ∧ s.se.queue ≠ []
  | .extraction n => n = now ∧
      ∃ f, s.se.inFlight = some f ∧ f.extracted = none ∧ s.WindowsComplete f
  | .settlementComplete n => n = now ∧
      ∃ f x, s.se.inFlight = some f ∧ f.extracted = some x ∧ past x.instant 10000
  | .closeComputations n b => n = now ∧ (s.buffer b).state = .closing ∧
      s.se.holds (s.buffer b).record.number = false
  | .holdExpiry n p => n = now ∧ ∃ r d, s.ab.positions.get p = some r ∧ r.state = .pending ∧
      r.deadline = some d ∧ d.toNat ≤ s.tbu.siteTime.toNat
  | .ackTimeout n => n = now ∧ ∃ t, s.sli.ackTimer = some t ∧ past t (10000 * set.ackTimeout)
  | .pulseTimerExpiry n => n = now ∧ ∃ t, s.sli.pulseTimer = some t ∧ past t (10000 * set.pulseWidth)
  | .listenTimerExpiry n => n = now ∧ ∃ t, s.sli.listenTimer = some t ∧ past t (10000 * set.ackTimeout)
  | .reportWriteStart n => n = now ∧ s.HeadFits
  | .reportWriteComplete n => n = now ∧ s.rpw.held ≠ [] ∧
      ∃ w, s.rpw.write = some w ∧ past w.startedAt 100000
  | .waitingArmLatch n => n = now ∧ s.trainsBusy = false ∧
      ∃ k candidate clamps, s.ou.waiting = some (.arm k candidate clamps)
  | .waitingDisarmComplete n => n = now ∧
      ∃ k b, s.ou.waiting = some (.disarm k b) ∧ (s.buffer b).state ≠ .closing
  | .orderTake n => n = now ∧ s.ou.running = none ∧ s.ou.queue ≠ []
  | .arm n => n = now ∧ running (some .arm)
  | .disarm n => n = now ∧ running (some .disarm)
  | .setTime n => n = now ∧ running (some .setTime)
  | .attachConsist n => n = now ∧ running (some .attachConsist)
  | .dropConsist n => n = now ∧ running (some .dropConsist)
  | .decideAlarm n => n = now ∧ running (some .decideAlarm)
  | .clearStop n => n = now ∧ running (some .clearStop)
  | .holdLive n => n = now ∧ running (some .holdLive)
  | .releaseLive n => n = now ∧ running (some .releaseLive)
  | .peekTrain n => n = now ∧ running (some .peekTrain)
  | .setChannelService n => n = now ∧ running (some .setChannelService)
  | .unknownKind n => n = now ∧ running none
  | .holdTimerExpiry n => n = now ∧ ∃ t, s.lvu.hold = some t ∧ past t 20000000
  | .liveRefresh n => n = now ∧ now ≠ 0 ∧ now.toNat % 1000000 = 0 ∧ s.lvu.hold = none ∧
      s.lvu.refreshedAt ≠ some now
  | .elementEdge _ _ _ _ _ | .pointComplete _ _ _ | .scannerFrame _ _ _ _ | .secondPulse _
  | .ackEdge _ _ _ | .releaseWrite _ _ | .postWrite _ _ _ | .attnRead _ | .attnMaskWrite _ _
  | .siteReset _ | .fullReset _ | .powerReset _ _ _ _ | .droppedWrite _ _ _ | .hostStore _ _ _ => False

/-! ### Settlements (chapters 3 and 4) -/

/-- The speed of a segment of length `len` run in `dur` cycles at the rate `rate` (R55). -/
def SegmentSpeed.Of (sp : SegmentSpeed) (len : Nat) (dur : Int) (rate : Nat) : Prop :=
  let v : Int := ((len : Int) * rate + dur / 2) / dur
  (dur ≤ 0 → sp = .invalid) ∧ (0 < dur → v < 300 → sp = .creep) ∧
  (0 < dur → 300 ≤ v → v ≤ 100000 → sp = .valid v.toNat) ∧ (0 < dur → 100000 < v → sp = .invalid)

/-- The axle speed formed from two segment speeds, absent when it is invalid (R56). -/
def SpeedFrom (a b : SegmentSpeed) (v : Option Nat) : Prop :=
  (∀ x y, a = .valid x → b = .valid y → v = some ((x + y + 1) / 2)) ∧
  (∀ x, a = .valid x → (∀ y, b ≠ .valid y) → v = some x) ∧
  (∀ y, (∀ x, a ≠ .valid x) → b = .valid y → v = some y) ∧
  ((∀ x, a ≠ .valid x) → (∀ y, b ≠ .valid y) → v = none)

/-- The window of a place at distance `d`, timed by a segment that starts at distance `start` and time `time` and
has a length and a duration, with a half window and steps of `step` cycles (R58, R59, R72, R73). -/
def Window.Around (w : Window) (d start len : Nat) (time dur half : Int) (step : Nat) : Prop :=
  let t := time + (((d : Int) - start) * dur + (len / 2 : Nat)) / len
  w.lo = (t - half) / step ∧ w.hi = (t + half) / step

/-- The number of axles of the first `k` vehicles of a consist (R92). -/
def axlesBefore (vs : List Vehicle) (k : Nat) : Nat := ((vs.take k).map (·.axles)).sum

/-- A settlement as the take of a request leaves it, the train's buffer holding a consist or none: the inputs
fixed (R49), the limit of the covering vehicle (R92), the segment speeds (R55), and with a valid axle speed
the window of every crib and scanner, each timed by its own segment when that is valid and otherwise by the
other (R57 to R59, R72, R73). -/
def State.FixesInputs (s : State) (q : Request) (consist : Option (List Vehicle)) (f : Settlement) : Prop :=
  let c := s.site.settings
  let entry : Nat := match q.dir with | .east => c.g1 | .west => c.g3
  let exit : Nat := match q.dir with | .east => c.g3 | .west => c.g1
  let dist (p : Nat) : Nat := ((p : Int) - entry).natAbs
  let lenA := dist c.g2
  let lenB := dist exit - dist c.g2
  let durB : Int := (q.t3 - q.t2).toInt
  let timed (w : Window) (d : Nat) (half : Nat → Int → Int) (step : Nat) : Prop :=
    let byA : Prop := (∃ x, f.segmentA = .valid x) ∧ (d < lenA ∨ ∀ y, f.segmentB ≠ .valid y)
    (∀ t1 : Cycle, q.t1 = some t1 → byA →
      w.Around d 0 lenA t1.toNat (q.t2 - t1).toInt (half lenA (q.t2 - t1).toInt) step) ∧
    (¬byA → w.Around d lenA lenB q.t2.toNat durB (half lenB durB) step)
  f.request = q ∧ f.rate = s.tbu.rate ∧ f.settings = c ∧ f.extracted = none ∧
  (∀ n : Fin 16, f.strainInService.get n = true ↔ (s.strain n).service = .inService) ∧
  (∀ n : Fin 4, f.scannerInService.get n = true ↔ (s.scanner n).service = .inService) ∧
  (∀ (vs : List Vehicle) (k : Nat) (v : Vehicle), consist = some vs → vs[k]? = some v →
    axlesBefore vs k ≤ q.axle → q.axle < axlesBefore vs k + v.axles →
    f.limit = (if v.limit = 0 then c.defaultAxleLimit else v.limit) ∧ f.source = .consist) ∧
  ((∀ vs : List Vehicle, consist = some vs → axlesBefore vs vs.length ≤ q.axle) →
    f.limit = c.defaultAxleLimit ∧ f.source = .default) ∧
  (q.t1 = none → f.segmentA = .absent) ∧
  (∀ t1 : Cycle, q.t1 = some t1 → f.segmentA.Of lenA (q.t2 - t1).toInt s.tbu.rate) ∧
  f.segmentB.Of lenB durB s.tbu.rate ∧
  (∀ v : Nat, SpeedFrom f.segmentA f.segmentB (some v) →
    f.cribWindows.length = 16 ∧ f.scanWindows.length = 4 ∧
    (∀ (n : Fin 16) (w : Window), f.cribWindows[n.val]? = some w →
      timed w (dist (c.cribs.get n)) (fun len dur => (c.cribWindow * dur) / (2 * len : Nat))
        (500 * c.averaging)) ∧
    (∀ (n : Fin 4) (w : Window), f.scanWindows[n.val]? = some w →
      timed w (dist (c.scanners.get n)) (fun _ _ => (c.scanWindow * s.tbu.rate / (2 * v) : Nat)) 10000)) ∧
  (SpeedFrom f.segmentA f.segmentB none → f.cribWindows = [] ∧ f.scanWindows = [])

/-- The crib load of a crib under a gain, absent for an invalid crib: the peak above the baseline, scaled,
rounded and saturated (R60). -/
def CribRead.cribLoad (r : CribRead) (gain : Nat) : Option Nat :=
  if r.valid then ((r.points.map (fun p => p.value - r.baseline)).max?).map (fun m =>
    if m ≤ 0 then 0 else min 65535 ((m.toNat * gain + 32768) / 65536))
  else none

/-- The valid cribs of the eight channels from the channel of index `first` on: the load of each, and whether it
is clipped (R61, R62). -/
def Settlement.validCribs (f : Settlement) (x : Extracted) (first : Nat) : List (Nat × Bool) :=
  (x.cribs.zipIdx.filter (fun r => first ≤ r.2 ∧ r.2 < first + 8)).filterMap (fun r =>
    (r.1.cribLoad (f.settings.gains.get (Fin.ofNat 16 r.2))).map (fun w => (w, r.1.points.any (·.clip))))

/-- The loads of a rail with the valid cribs `v` (R62, R63): the rounded mean of what is left when one smallest
and one largest load are removed, the peak, the dynamic increment, the impact ratio and the flags. -/
def RailLoad.Of (l : RailLoad) (v : List (Nat × Bool)) : Prop :=
  l.validCribs = v.length ∧ l.peak = (v.map (·.1)).max? ∧
  (l.tooFew = true ↔ v.length < 5) ∧ (v.length < 5 → l.load = none) ∧
  (5 ≤ v.length → ∃ (least most : Nat) (kept : List Nat),
    (least :: most :: kept).Perm (v.map (·.1)) ∧ (∀ w ∈ most :: kept, least ≤ w) ∧ (∀ w ∈ kept, w ≤ most) ∧
    l.load = some ((kept.sum + kept.length / 2) / kept.length)) ∧
  (l.load = none → l.dynamic = none ∧ l.ratio = none) ∧
  (∀ load peak : Nat, l.load = some load → l.peak = some peak →
    load ≤ peak ∧ l.dynamic = some (peak - load) ∧
    l.ratio = some (if load = 0 then 0 else min 65535 (peak * 256 / load))) ∧
  (l.noLoad = true ↔ l.load = some 0) ∧
  (l.clipped = true ↔ ∃ w ∈ v, some w.1 = l.peak ∧ w.2 = true)

/-- The level, value and threshold of the WHEEL_FLAT judgement of a rail that is judged, from its dynamic
increment, impact ratio and wheel load, by the table of R66. -/
def flatRow (c : Settings) (d q load : Nat) : Option (Level × Nat × Nat) :=
  if c.dStop ≤ d then some (.stop, d, c.dStop)
  else if c.qStop ≤ q ∧ c.lMin ≤ load then some (.stop, q, c.qStop)
  else if c.dWarn ≤ d then some (.warn, d, c.dWarn)
  else none

/-- A rail is judged for WHEEL_FLAT (R66). -/
abbrev RailLoad.Judged (l : RailLoad) (c : Settings) (speed : Option Nat) (outOfRange : Bool) : Prop :=
  (∃ v ∈ speed, c.vFlatMin ≤ v) ∧ outOfRange = false ∧ ∃ load ∈ l.load, 0 < load

/-- The WHEEL_FLAT row of a rail, and its *unresolved* flag: a judged rail takes the row of its loads, and a
judged clipped rail that reaches no level is *unresolved* (R66, R67). -/
def RailLoad.FlatJudged (l : RailLoad) (c : Settings) (speed : Option Nat) (outOfRange : Bool)
    (row : Option (Level × Nat × Nat)) : Prop :=
  (¬l.Judged c speed outOfRange → row = none) ∧
  (∀ d q load : Nat, l.Judged c speed outOfRange → l.dynamic = some d → l.ratio = some q →
    l.load = some load → row = flatRow c d q load) ∧
  (l.unresolved = true ↔ l.Judged c speed outOfRange ∧ l.clipped = true ∧ row = none)

/-- The OVERLOAD row of an axle load under a limit (R68). -/
def overloadRow (c : Settings) (limit : Nat) (outOfRange : Bool) (axleLoad : Option Nat) :
    Option (Level × Nat × Nat) :=
  axleLoad.bind (fun w =>
    if outOfRange then none
    else if limit + c.overloadExcess ≤ w then some (.stop, w, limit + c.overloadExcess)
    else if limit ≤ w then some (.warn, w, limit)
    else none)

/-- The IMBALANCE row of an axle's wheel loads, `w` being the axle load (R69). -/
def imbalanceRow (c : Settings) (outOfRange : Bool) (a b w : Option Nat) : Option (Level × Nat × Nat) :=
  a.bind (fun x => b.bind (fun y => w.bind (fun w =>
    let d := ((x : Int) - y).natAbs
    if outOfRange = true ∨ w = 0 then none
    else if c.imbPct * w ≤ d * 100 then some (.note, d * 100 / w, c.imbPct)
    else none)))

/-- The rise at a scanner, from the axle speed, the service at the take and what extraction read of its window:
the first condition of R76 that fails, or the hottest sample less the ambient, clamped to 0 to 3000 (R75). -/
def riseFor (c : Settings) (speed : Option Nat) (inService : Bool) (read : Option ScanRead) : Rise :=
  match speed, read with
  | some v, some r =>
    let samples := r.slots.filterMap (fun x => x.map BitVec.toInt)
    if v < c.vScanMin ∨ c.vScanMax < v then .invalid .speed
    else if inService = false then .invalid .service
    else if r.ambient = none then .invalid .ambient
    else if r.aged = true then .invalid .aged
    else if samples.length < 3 then .invalid .samples
    else .valid (max 0 (min 3000 (samples.max?.getD 0 - r.ambient.getD 0))).toNat
  | _, _ => .invalid .noSpeed

/-- The row of a rise judged against a WARN and a STOP threshold (R77). -/
def riseRow (warn stop : Nat) : Rise → Option (Level × Nat × Nat)
  | .valid r => if stop ≤ r then some (.stop, r, stop) else if warn ≤ r then some (.warn, r, warn) else none
  | .invalid _ => none

/-- What a settlement computes from its take and its extraction (R56, R60 to R70, R75 to R78): the axle speed, the
load result, the four rises, and the alarms in the order in which they are raised. -/
def Settlement.Computes (f : Settlement) (x : Extracted) (r : SettleResult) : Prop :=
  let c := f.settings
  let q := f.request
  let l := r.load
  let alarm (row : Option (Level × Nat × Nat)) (kind : AlarmKind) (rail : Rail) : List Alarm :=
    (row.map (fun w => { kind := kind, level := w.1, train := q.train, axle := q.axle, rail := rail
                         value := w.2.1, threshold := w.2.2 : Alarm })).toList
  SpeedFrom f.segmentA f.segmentB r.speed ∧
  l.railA.Of (f.validCribs x 0) ∧ l.railB.Of (f.validCribs x 8) ∧
  l.axleLoad = l.railA.load.bind (fun a => l.railB.load.map (fun b => min 65535 (a + b))) ∧
  (l.outOfRange = true ↔ ∃ v ∈ r.speed, v < c.vLoadMin ∨ c.vLoadMax < v) ∧
  (l.noSpeed = true ↔ r.speed = none) ∧
  (l.creep = true ↔ f.segmentA = .creep ∨ f.segmentB = .creep) ∧
  (l.disagreement = true ↔ ∃ a b : Nat, f.segmentA = .valid a ∧ f.segmentB = .valid b ∧
    max a b < 8 * ((a : Int) - b).natAbs) ∧
  l.twoGate = q.twoGate ∧ l.run = q.run ∧ l.limit = f.limit ∧ l.source = f.source ∧
  (∀ i : Fin 4, r.rises.get i = riseFor c r.speed (f.scannerInService.get i) x.scans[i.val]?) ∧
  ∃ flatA flatB : Option (Level × Nat × Nat),
    l.railA.FlatJudged c r.speed l.outOfRange flatA ∧ l.railB.FlatJudged c r.speed l.outOfRange flatB ∧
    r.alarms =
      alarm flatA .wheelFlat .a ++ alarm flatB .wheelFlat .b ++
      alarm (overloadRow c f.limit l.outOfRange l.axleLoad) .overload .none ++
      alarm (imbalanceRow c l.outOfRange l.railA.load l.railB.load l.axleLoad) .imbalance .none ++
      alarm (riseRow c.hotWarn c.hotStop (r.rises.get 0)) .hotBearing .a ++
      alarm (riseRow c.hotWarn c.hotStop (r.rises.get 1)) .hotBearing .b ++
      alarm (riseRow c.wheelWarn c.wheelStop (r.rises.get 2)) .hotWheel .a ++
      alarm (riseRow c.wheelWarn c.wheelStop (r.rises.get 3)) .hotWheel .b

/-- What extraction reads of a crib window of a channel that is in service or not, with the channel's last-end
mark as it stood: the four grounds of R59 on which the crib is invalid, and of a valid one the points of the
window, newest first, and the integer baseline (R11, R50, R59). A channel without a baseline has no point. -/
def CribRead.Of (x : CribRead) (c : StrainChannel) (inService : Bool) (mark : Option Int) (w : Window) :
    Prop :=
  (x.valid = true ↔ inService = true ∧ 3 ≤ w.hi - w.lo + 1 ∧ (∀ m, mark = some m → m < w.lo) ∧
    ((c.next - c.history.length : Nat) : Int) ≤ w.lo ∧ c.baseline ≠ none) ∧
  (x.valid = true → (x.points.length : Int) = w.hi - w.lo + 1 ∧
    (∀ k : Nat, k < x.points.length → x.points[k]? = c.history[c.next - 1 - w.hi.toNat + k]?) ∧
    ∀ b, c.baseline = some b → x.baseline = b / 256)

/-- What extraction reads of a scanner window: *aged-out* when the window begins before the oldest slot held, and
otherwise its slots, newest first, with the integer ambient (R74). -/
def ScanRead.Of (x : ScanRead) (c : Scanner) (nextSlot : Nat) (w : Window) : Prop :=
  (x.aged = true ↔ w.lo < ((nextSlot - c.history.length : Nat) : Int)) ∧
  (x.aged = false → x.slots.length = (w.hi - w.lo + 1).toNat ∧
    ∀ k : Nat, k < x.slots.length → x.slots[k]? = c.history[nextSlot - 1 - w.hi.toNat + k]?) ∧
  x.ambient = c.ambient.map (· / 64)

/-! ### Records and layouts (chapter 11) -/

/-- A signed value as a word, and -2,147,483,648 when it is absent (R193). -/
def signedItem (v : Option Int) : Nat := (BitVec.ofInt 32 (v.getD (-2147483648))).toNat

/-- The two words of a 64-bit value, the less significant first (R193). -/
def longItems (word : Nat) (v : BitVec 64) : List Item :=
  [(word, 0, 32, v.toNat % 4294967296), (word + 1, 0, 32, v.toNat / 4294967296)]

/-- A rise slot as its 12-bit field and its run (R198). -/
def riseItem : RiseSlot → Nat × Nat
  | .empty => (4095, 0)
  | .valid v n => (v, n)
  | .invalid .noSpeed n => (3001, n)
  | .invalid .speed n => (3002, n)
  | .invalid .service n => (3003, n)
  | .invalid .ambient n => (3004, n)
  | .invalid .aged n => (3005, n)
  | .invalid .samples n => (3006, n)

/-- An axle record: the entry of an index (R139, R198). -/
def axleItems (index : Nat) (e : AxleEntry) : List Item :=
  let load (f : LoadResult → Nat) : Nat := match e.load with | some l => f l | none => 0
  let rise (i : Fin 4) : Nat × Nat := match e.temps with
    | some t => riseItem (t.slots.get i)
    | none => (4095, 0)
  [(0, 0, 10, index), (0, 10, 3, e.state.code), (0, 13, 1, flag (e.run.broken = true)),
   (0, 14, 1, flag (e.run.twoGate = true)), (0, 15, 1, flag (e.consistLate = true)),
   (0, 16, 6, e.alarmBits.toNat), (0, 22, 6, e.run.number), (0, 28, 1, load (fun l => flag (l.source = .consist))),
   (1, 0, 17, e.speed.getD 0), (1, 17, 6, load (·.run)),
   (1, 23, 6, match e.temps with | some t => t.recordRun | none => 0),
   (1, 29, 1, load (fun l => flag (l.twoGate = true))),
   (2, 0, 16, load (·.railA.load.getD 0)), (2, 16, 16, load (·.railA.peak.getD 0)),
   (3, 0, 16, load (·.railB.load.getD 0)), (3, 16, 16, load (·.railB.peak.getD 0)),
   (4, 0, 16, load (·.limit)), (4, 16, 4, load (·.railA.validCribs)), (4, 20, 4, load (·.railB.validCribs)),
   (4, 24, 1, load (fun l => flag (l.railA.clipped = true))),
   (4, 25, 1, load (fun l => flag (l.railA.unresolved = true))),
   (4, 26, 1, load (fun l => flag (l.railB.clipped = true))),
   (4, 27, 1, load (fun l => flag (l.railB.unresolved = true))),
   (4, 28, 1, load (fun l => flag (l.outOfRange = true))), (4, 29, 1, load (fun l => flag (l.noSpeed = true))),
   (4, 30, 1, load (fun l => flag (l.creep = true))), (4, 31, 1, load (fun l => flag (l.disagreement = true))),
   (5, 0, 12, (rise 0).1), (5, 12, 12, (rise 1).1), (5, 24, 6, (rise 0).2),
   (6, 0, 12, (rise 2).1), (6, 12, 12, (rise 3).1), (6, 24, 6, (rise 1).2),
   (7, 0, 6, (rise 2).2), (7, 6, 6, (rise 3).2), (7, 12, 10, e.bogie), (7, 22, 9, e.vehicle)]

/-- A vehicle record: the vehicle and its results (R139, R199). -/
def vehicleItems (v : Vehicle) (r : VehicleResult) : List Item :=
  (List.range 12).map (fun k => (k / 4, 8 * (k % 4), 8, (v.tag[k]?.getD 0).toNat)) ++
  [(3, 0, 8, v.tag.length), (3, 8, 8, v.axles), (3, 16, 8, v.kind.code), (3, 24, 8, r.mapped),
   (4, 0, 16, v.limit), (4, 16, 16, r.firstAxle.getD 0xFFFF), (5, 0, 32, r.load), (6, 0, 8, r.weighed),
   (6, 8, 8, r.alarmBits.toNat)]

/-- An alarm entry, half a unit (R199). -/
def alarmItems (e : AlarmEntry) : List Item :=
  [(0, 0, 16, e.axle), (0, 16, 8, e.rail.code), (0, 24, 8, e.kind.code), (1, 0, 8, e.level.code),
   (1, 8, 8, match e.outcome with | some o => o.code | none => 0), (1, 16, 1, flag (e.unboarded = true)),
   (2, 0, 16, e.value), (2, 16, 16, e.threshold), (3, 0, 16, e.id)]

/-- Flags in consecutive bits of a word from a bit on. -/
def flagItems (word lo : Nat) (flags : List Bool) : List Item :=
  flags.zipIdx.map (fun b => (word, lo + b.2, 1, flag (b.1 = true)))

/-- A report header: the held report's header, the write of it, and the count of reports lost (R138, R199). -/
def headerItems (h : ReportHeader) (w : ReportWrite) (lost : Nat) : List Item :=
  let span : Int := max (-2147483647) (min 2147483647 ((h.closeTime.toNat : Int) - h.openTime.toNat))
  let ambient (i : Fin 4) : Nat :=
    (BitVec.ofInt 12 (match h.ambients.get i with | some a => max (-2047) (min 2047 a) | none => -2048)).toNat
  [(0, 0, 32, w.sequence.toNat), (1, 0, 32, h.number.toNat)] ++ longItems 2 h.openTime ++
  [(4, 0, 32, (BitVec.ofInt 32 span).toNat), (5, 0, 3, w.form.code), (5, 3, 3, h.status.code), (5, 6, 1, h.dir.code)] ++
  flagItems 5 7 [h.consistPresent, h.mismatch, h.sensorFault, h.untrimmed, h.tableOverflow, h.underrun, h.phantom,
    h.stagingOverflow, h.countDisagreement, h.substituted, h.boardFull] ++
  [(5, 18, 9, h.vehicleCount), (6, 0, 11, w.size), (6, 11, 9, w.vehicles), (6, 20, 11, w.axles),
   (7, 0, 7, w.alarms), (7, 7, 7, h.notes), (7, 14, 7, h.warns), (7, 21, 7, h.stops),
   (8, 0, 16, h.unlisted), (8, 16, 16, lost), (9, 0, 16, h.netAxles), (9, 16, 16, h.unweighed),
   (10, 0, 16, h.revisits), (10, 16, 16, h.skipped), (11, 0, 17, h.speedMin.getD 0), (11, 17, 11, h.entries),
   (12, 0, 17, h.speedMax.getD 0), (12, 17, 12, ambient 0), (13, 0, 17, h.speedMean.getD 0), (13, 17, 12, ambient 1),
   (14, 0, 32, h.totalLoad), (15, 0, 12, ambient 2), (15, 12, 12, ambient 3)]

/-- The PEEK_TRAIN summary of an open train: its record, its buffer, the vehicles of its consist, and its alarm
entries, unlisted entries and *board full* (R170, R195). -/
def summaryItems (r : TrainRecord) (place : Option (Fin 4)) (vehicles : Option Nat) (alarms unlisted : Nat)
    (boardFull : Bool) : List Item :=
  let net (n : Int) : Nat := (BitVec.ofInt 32 (max (-2147483647) (min 2147483647 n))).toNat
  [(0, 0, 32, r.number.toNat), (1, 0, 3, match place with | some b => b.val | none => 4), (1, 3, 1, r.dir.code),
   (1, 4, 1, flag (vehicles.isSome = true)), (1, 8, 4, r.staging.length), (1, 16, 9, vehicles.getD 0)] ++
  longItems 2 r.openTime ++
  [(4, 0, 16, r.entries), (4, 16, 16, r.f), (5, 0, 16, r.x), (5, 16, 16, r.overflow), (6, 0, 16, r.overflowExit),
   (6, 16, 8, alarms), (7, 0, 32, net r.entryNet), (8, 0, 32, net r.exitNet),
   (9, 0, 16, r.revisits), (9, 16, 16, r.skipped)] ++
  flagItems 10 9 [r.sensorFault, r.untrimmed, r.tableOverflow, r.underrun, r.phantom, r.stagingOverflow,
    r.countDisagreement, r.substituted, boardFull] ++
  (11, 0, 32, unlisted) :: (List.finRange 4).map (fun i => (12 + i.val, 0, 32, signedItem (r.ambients.get i)))

/-- The stop word and the word of the counts, at a word index (R194, R196). -/
def stopItems (word : Nat) (l : StopLine) (b : Board) : List Item :=
  flagItems word 0 [b.demand, l.mode == .pulse, l.stopOut, l.ackLevel, l.fault, l.owed] ++
  [(word, 8, 3, l.phase.code), (word, 12, 2, l.attempt.getD 0), (word + 1, 0, 16, l.stray),
   (word + 1, 16, 16, b.unlistedStops)]

/-- The items of the live view (R178, R196), with its generation. -/
def State.liveItems (s : State) (generation : Word) : List Item :=
  let train (f : TrainRecord → Nat) : Nat := match s.openRecord with | some r => f r | none => 0
  let services : List Service := (List.finRange 5).map (fun i => (s.wdi.get i).service) ++
    (List.finRange 16).map (fun n => (s.strain n).service) ++ (List.finRange 4).map (fun n => (s.scanner n).service)
  [(0, 0, 32, generation.toNat), (1, 0, 32, s.tbu.rate)] ++ longItems 2 s.tbu.siteTime ++ longItems 4 s.tbu.cycle ++
  [(6, 0, 2, s.tbu.trim.code), (6, 8, 1, flag (s.site.mode = .watch)), (6, 9, 1, flag (s.site.latched = true)),
   (6, 16, 2, match s.tt.tracker with | .idle => 0 | .approach _ => 1 | .opened => 2), (6, 18, 1, train (·.dir.code))] ++
  (List.finRange 5).flatMap (fun i => [(7, 4 * i.val, 2, (s.wdi.get i).decoder.code),
    (7, 4 * i.val + 2, 1, flag ((s.wdi.get i).decoder ≠ .clear))]) ++
  [(8, 0, 32, train (·.number.toNat)), (9, 0, 16, train (·.f)), (9, 16, 16, train (·.x)), (10, 0, 32, train (·.overflow)),
   (11, 0, 32, s.lvu.lastSpeed.getD 0)] ++ stopItems 12 s.sli s.ab ++ [(14, 0, 32, s.site.latchCount.toNat)] ++
  (List.finRange 16).map (fun n => (16 + n.val, 0, 32, signedItem (do
    let p ← (s.strain n).history.head?
    let b ← (s.strain n).baseline
    return p.value - b / 256))) ++
  (List.finRange 4).map (fun n => (32 + n.val, 0, 32, signedItem ((s.scanner n).latest.map BitVec.toInt))) ++
  (List.finRange 4).map (fun n => (36 + n.val, 0, 32, signedItem ((s.scanner n).ambient.map (· / 64)))) ++
  services.zipIdx.map (fun x => (40 + x.2 / 4, 8 * (x.2 % 4), 8, x.1.code))

/-- The mirror record of a position: its record with its creation number, or nothing, and its version (R118,
R196). -/
def Board.positionItems (b : Board) (p : Fin 32) : List Item :=
  (match b.positions.get p with
  | some r =>
    [(0, 0, 16, r.id), (0, 16, 3, r.state.code), (0, 19, 2, r.level.code), (0, 21, 1, flag (r.deferred = true)),
     (0, 22, 1, flag (r.deadline ≠ none)), (0, 24, 3, r.decision.code), (0, 27, 2, r.rail.code), (1, 0, 8, r.kind.code),
     (1, 8, 8, (b.order.takeWhile (· != p)).length + 1), (1, 16, 10, r.axle), (2, 0, 32, r.train.toNat),
     (3, 0, 16, r.value), (3, 16, 16, r.threshold)] ++ longItems 4 r.raised ++ longItems 6 (r.deadline.getD 0)
  | none => []) ++ [(15, 0, 32, (b.versions.get p).toNat)]

/-- The words of a position's mirror show its record (R118). -/
def State.ShowsPosition (s : State) (p : Fin 32) : Prop :=
  s.mem.Shows (0x2200 + 64 * p.val) 16 (s.ab.positionItems p)

/-- The codes of R193, R195, R196, R198 and R199. -/
def CodesAreTheManuals : Prop :=
  (∀ x ∈ [(AlarmKind.wheelFlat, 1), (.overload, 2), (.imbalance, 3), (.hotBearing, 4), (.hotWheel, 5),
    (.bearingDiff, 6)], x.1.code = x.2 ∧ ∀ k : Nat, x.1.bit.getLsbD k = true ↔ k + 1 = x.2) ∧
  (∀ x ∈ [(Level.note, 1), (.warn, 2), (.stop, 3)], x.1.code = x.2) ∧
  (∀ x ∈ [(Rail.none, 0), (.a, 1), (.b, 2)], x.1.code = x.2) ∧
  (∀ x ∈ [(RecordState.informed, 1), (.pending, 2), (.committed, 3), (.vetoed, 4), (.cleared, 5)],
    x.1.code = x.2) ∧
  (∀ x ∈ [(VehicleKind.locomotive, 1), (.wagon, 2), (.coach, 3)], x.1.code = x.2) ∧
  (∀ x ∈ [(Dir.east, 0), (.west, 1)], x.1.code = x.2) ∧
  (∀ x ∈ [(Service.inService, 0), (.stuck, 1), (.drift, 2), (.flat, 3), (.link, 4), (.ambient, 5),
    (.outOfService, 6)], x.1.code = x.2) ∧
  (∀ x ∈ [(Phase.idle, 0), (.spacing, 1), (.pulsing, 2), (.listening, 3), (.trailing, 4)], x.1.code = x.2) ∧
  (∀ x ∈ [(SlotState.idle, 0), (.queued, 1), (.running, 2), (.waiting, 3), (.done, 4)], x.1.code = x.2) ∧
  (∀ x ∈ [(OrderOutcome.none, 0), (.done, 1), (.replaced, 2), (.badArgument, 3), (.unknownKind, 4), (.busy, 5),
    (.notArmed, 6), (.noTrain, 7), (.noBuffer, 8), (.noSuchAlarm, 9), (.notPending, 10), (.tooLate, 11),
    (.alreadyDeferred, 12), (.notCommitted, 13), (.badConfig, 14), (.aborted, 15)], x.1.code = x.2) ∧
  (∀ x ∈ [(Decision.none, 0), (.veto, 1), (.confirm, 2), (.defer, 3), (.clear, 4)], x.1.code = x.2) ∧
  (∀ x ∈ [(Trim.none, 0), (.trimmed, 1), (.lost, 2)], x.1.code = x.2) ∧
  (∀ x ∈ [(DecoderState.clear, 0), (.oneW, 1), (.oneE, 2), (.both, 3)], x.1.code = x.2) ∧
  (∀ x ∈ [(AxleState.entered, 0), (.passed, 1), (.settling, 2), (.settled, 3), (.skipped, 4), (.backed, 5)],
    x.1.code = x.2) ∧
  (∀ x ∈ [(Form.full, 1), (.summary, 2), (.stub, 3), (.filler, 4)], x.1.code = x.2) ∧
  (∀ x ∈ [(CloseStatus.cleared, 1), (.withdrawn, 2), (.timedOut, 3), (.abandoned, 4), (.cutShort, 5)],
    x.1.code = x.2) ∧
  (∀ x ∈ [(BoardOutcome.none, 1), (.informed, 2), (.pending, 3), (.committed, 4), (.vetoed, 5), (.cleared, 6),
    (.unboarded, 7), (.evicted, 8)], x.1.code = x.2) ∧
  (∀ x ∈ [(OrderKind.arm, 1), (.disarm, 2), (.setTime, 3), (.attachConsist, 4), (.dropConsist, 5),
    (.decideAlarm, 6), (.clearStop, 7), (.holdLive, 8), (.releaseLive, 9), (.peekTrain, 10),
    (.setChannelService, 11)], ∀ w : Word, orderKindOf w = some x.1 ↔ w.toNat = x.2) ∧
  (∀ w : Word, orderKindOf w = none ↔ w.toNat = 0 ∨ 11 < w.toNat)

/-! ### The close computations (R83, R93 to R97, R102) -/

/-- An entry that is spacing-ready has its speed and the T2 of its current run (R94). -/
def AxleEntry.Ready (e : AxleEntry) (v : Nat) (t2 : Cycle) : Prop :=
  e.speed = some v ∧ e.run.t2 = some t2 ∧ ∃ t ∈ e.temps, t.recordRun = e.run.number

/-- Two consecutive entries are joined: the spacing between them is known and at most `most` (R94, R95). -/
def Joined (rate most : Nat) (a b : AxleEntry) : Prop :=
  ∃ (u v : Nat) (ta tb : Cycle), a.Ready u ta ∧ b.Ready v tb ∧ 0 < (tb - ta).toInt ∧
    8 * ((v : Int) - u).natAbs ≤ max u v ∧ ((tb - ta).toInt * v + (rate / 2 : Nat)) / rate ≤ most

/-- The bogie indices of the entries of an axle table: they fall into maximal runs of joined entries, and the
runs of 2 to 4 entries are the bogies, numbered from 1 (R95). -/
def BogiesOf (rate most : Nat) (axles : List AxleEntry) (bogies : List Nat) : Prop :=
  ∃ runs : List (List AxleEntry), runs.flatten = axles ∧ (∀ g ∈ runs, g ≠ []) ∧
    (∀ g ∈ runs, ∀ (i : Nat) (a b : AxleEntry), g[i]? = some a → g[i + 1]? = some b → Joined rate most a b) ∧
    (∀ (k : Nat) (g h : List AxleEntry) (a b : AxleEntry), runs[k]? = some g → runs[k + 1]? = some h →
      g.getLast? = some a → h.head? = some b → ¬Joined rate most a b) ∧
    bogies = runs.zipIdx.flatMap (fun g => List.replicate g.1.length
      (if 2 ≤ g.1.length ∧ g.1.length ≤ 4 then
        (runs.take g.2).countP (fun h => 2 ≤ h.length ∧ h.length ≤ 4) + 1 else 0))

/-- The valid bearing rise of an entry on a rail: place 0 is rail A, place 1 rail B. -/
def AxleEntry.bearingRise (e : AxleEntry) (place : Fin 4) : Option Nat :=
  e.temps.bind (fun t => match t.slots.get place with | .valid v _ => some v | _ => none)

/-- The alarms of the BEARING_DIFF check of a train, in order (R83): for each entry of a bogie and each rail with a
valid rise, the rise less the floored mean of the valid rises of the bogie's other members, when it reaches
the threshold. -/
def diffAlarmsOf (warn : Nat) (train : Word) (axles : List AxleEntry) : List Alarm :=
  axles.zipIdx.flatMap (fun x => [((0 : Fin 4), Rail.a), (1, .b)].filterMap (fun place =>
    (x.1.bearingRise place.1).bind (fun rise =>
      let others := axles.zipIdx.filterMap (fun y =>
        if y.1.bogie = x.1.bogie ∧ y.2 ≠ x.2 then y.1.bearingRise place.1 else none)
      let diff : Int := (rise : Int) - ((others.sum / others.length : Nat) : Int)
      if x.1.bogie = 0 ∨ others = [] ∨ diff < warn then none
      else some { kind := .bearingDiff, level := .warn, train := train, axle := x.2, rail := place.2
                  value := diff.toNat, threshold := warn })))

/-- The results of a vehicle that owns the entries `owned`, the first of them at index `first` (R96). -/
def VehicleResult.Of (x : VehicleResult) (first : Nat) (owned : List AxleEntry) : Prop :=
  let loads := owned.filterMap (fun e => e.load.bind (fun l => if l.outOfRange then none else l.axleLoad))
  x.firstAxle = (if owned = [] then none else some first) ∧ x.mapped = owned.length ∧ x.load = loads.sum ∧
  x.weighed = loads.length ∧
  ∀ k : Nat, x.alarmBits.getLsbD k = true ↔ ∃ e ∈ owned, e.alarmBits.getLsbD k = true

/-- The board outcome of an alarm entry of a train (R102). -/
def Board.Outcome (b : Board) (train : Word) (e : AlarmEntry) (o : BoardOutcome) : Prop :=
  let carried (p : Fin 32) (r : AlarmRecord) : Prop := b.positions.get p = some r ∧ r.train = train ∧
    r.axle = e.axle ∧ r.rail = e.rail ∧ r.kind = e.kind
  (e.level = .note → o = .none) ∧
  (e.level ≠ .note →
    (∀ (p : Fin 32) (r : AlarmRecord), carried p r → o = match r.state with
      | .informed => .informed
      | .pending => .pending
      | .committed => .committed
      | .vetoed => .vetoed
      | .cleared => .cleared) ∧
    ((∀ (p : Fin 32) (r : AlarmRecord), ¬carried p r) →
      (e.unboarded = true → e.id = 0 → o = .unboarded) ∧ (e.id ≠ 0 → o = .evicted)))

/-- The vehicle mapping, the *consist mismatch* flag and the *consist-late* marks of a buffer's entries `axles`,
with `y` the buffer after them (R93, R96, R97); without a consist nothing is mapped and the flag is clear. -/
def Buffer.Mapped (y : Buffer) (axles : List AxleEntry) (entries : Nat) : Prop :=
  y.axles.length = axles.length ∧
  (∀ (i : Nat) (e e' : AxleEntry), axles[i]? = some e → y.axles[i]? = some e' →
    e' = { e with vehicle := e'.vehicle, consistLate := e'.consistLate } ∧
    (y.consist = none → e' = e) ∧
    ∀ vs : List Vehicle, y.consist = some vs →
      (∀ (k : Nat) (v : Vehicle), vs[k]? = some v → axlesBefore vs k ≤ i → i < axlesBefore vs k + v.axles →
        e'.vehicle = k + 1) ∧
      (axlesBefore vs vs.length ≤ i → e'.vehicle = 0) ∧
      (e'.consistLate = true ↔ e.consistLate = true ∨
        (∃ l ∈ e.load, l.source = .default) ∧ i < axlesBefore vs vs.length)) ∧
  (y.consist = none → y.mismatch = false ∧ y.vehicles = []) ∧
  ∀ vs : List Vehicle, y.consist = some vs →
    (y.mismatch = true ↔ axlesBefore vs vs.length ≠ entries) ∧ y.vehicles.length = vs.length ∧
    ∀ (k : Nat) (v : Vehicle), vs[k]? = some v → ∃ x : VehicleResult, y.vehicles[k]? = some x ∧
      x.Of (axlesBefore vs k) ((axles.drop (axlesBefore vs k)).take v.axles)

/-! ### The alarm board (chapter 6) -/

/-- The stop line after a commit event (R124, R127): in PULSE mode a sequence starts, or one is owed. -/
def StopLine.afterCommit (l : StopLine) (now : Cycle) : StopLine :=
  match l.mode, l.phase with
  | .level, _ => l
  | .pulse, .idle => { l with phase := .pulsing, attempt := some 1, stopOut := true
                              pulseTimer := some now, listenTimer := some now }
  | .pulse, _ => { l with owed := true }

/-- The stop line after it is handed the stop demand (R124 to R127): a change drives STOP_OUT in LEVEL mode and
restarts its supervision, and is copied alone in PULSE mode. -/
def StopLine.afterDemand (l : StopLine) (demand : Bool) (now : Cycle) : StopLine :=
  if demand = l.demand then l
  else match l.mode with
    | .pulse => { l with demand := demand }
    | .level => { l with
        demand := demand, stopOut := demand, fault := l.fault && decide (l.ackLevel ≠ demand)
        ackTimer := if l.ackLevel = demand then none else if l.fault then l.ackTimer else some now }

/-- A record at the beginning of its hold window of `window` milliseconds (R107, R108). -/
def AlarmRecord.inWindow (r : AlarmRecord) (window : Nat) (now : SiteTime) : AlarmRecord :=
  if window = 0 then { r with state := .committed, deadline := none, deferred := false }
  else { r with state := .pending, deadline := some (now + BitVec.ofNat 64 window), deferred := false }

/-- A record after an alarm of its key (R107). -/
def AlarmRecord.afterAlarm (r : AlarmRecord) (a : Alarm) (window : Nat) (now : SiteTime) : AlarmRecord :=
  match a.level, r.state with
  | .stop, .informed =>
    { r with value := a.value, level := .stop, threshold := a.threshold, raised := now }.inWindow window now
  | .stop, .cleared =>
    { r with value := a.value, threshold := a.threshold, raised := now, decision := .none }.inWindow window now
  | _, _ => { r with value := a.value }

/-- The new record of an alarm, with its id (R108). -/
def Alarm.record (a : Alarm) (id window : Nat) (now : SiteTime) : AlarmRecord :=
  let r : AlarmRecord :=
    { id := id, state := .informed, level := a.level, kind := a.kind, train := a.train, axle := a.axle
      rail := a.rail, value := a.value, threshold := a.threshold, raised := now, deadline := none
      deferred := false, decision := .none }
  if a.level = .stop then r.inWindow window now else r

/-- The id a new record takes from the next id `n` on: the first, with 65535 followed by 1, that no record carries
(R106). -/
def Board.FreshId (b : Board) (n id : Nat) : Prop :=
  let after (n : Nat) : Nat := if n < 65535 then n + 1 else 1
  let carried (id : Nat) : Prop := ∃ (p : Fin 32) (r : AlarmRecord), b.positions.get p = some r ∧ r.id = id
  ∃ k : Nat, k ≤ 32 ∧ id = after^[k] n ∧ ¬carried id ∧ ∀ j : Nat, j < k → carried (after^[j] n)

/-- A record is spent (R105). -/
abbrev AlarmRecord.Spent (r : AlarmRecord) : Prop :=
  r.state = .informed ∨ r.state = .vetoed ∨ r.state = .cleared

/-- Every byte outside the stop line's words of the site header (R194) and the mirror records of some positions (R196)
reads as before. -/
def Memory.SameButBoard (m m' : Memory) (shown : Fin 32 → Prop) : Prop :=
  ∀ a : Nat, a < 0x28 ∨ 0x30 ≤ a → (∀ p : Fin 32, shown p → a < mirrorBase p ∨ mirrorBase p + 0x40 ≤ a) →
    m'.readByte a = m.readByte a

/-- The record of one position has been written, in place of `old`, which was there (R105, R117 to R119): the others
are as they were, ALARM is pending for a creation and for a change of state or level, the stop line has been told of a
commit and of the demand, and the mirror shows the record under its next version. The site header shows the stop line
after a commit and after a change of it, and keeps its words otherwise (R135). No other byte of the memory changes but
in the mirrors of `behind`, the positions whose creation numbers an eviction has changed. -/
def State.RecordTaken (s t : State) (p : Fin 32) (old : Option AlarmRecord) (r : AlarmRecord)
    (behind : List (Fin 32)) : Prop :=
  let committed (x : AlarmRecord) : Prop := x.state = .committed
  let same (f : AlarmRecord → Prop) : Prop := ∃ o ∈ old, f o
  t = { s with ab := t.ab, sli := t.sli, mem := t.mem, atu := t.atu } ∧
  t.ab.positions.get p = some r ∧ (∀ q : Fin 32, q ≠ p → t.ab.positions.get q = s.ab.positions.get q) ∧
  t.ab.versions.get p = succCount (s.ab.versions.get p) ∧
  t.ab.unlistedStops = s.ab.unlistedStops ∧ t.ShowsPosition p ∧
  s.mem.SameButBoard t.mem (fun q => q = p ∨ q ∈ behind) ∧
  (t.sli ≠ s.sli → t.mem.Shows 0x28 2 (stopItems 0 t.sli t.ab)) ∧
  (t.sli = s.sli → ¬(committed r ∧ ¬same committed) →
    ∀ a : Nat, 0x28 ≤ a → a < 0x30 → t.mem.readByte a = s.mem.readByte a) ∧
  (same (fun o => o.state = r.state ∧ o.level = r.level) → t.atu = s.atu) ∧
  (¬same (fun o => o.state = r.state ∧ o.level = r.level) →
    t.atu = { s.atu with pending := s.atu.pending ||| 0x02#8 }) ∧
  (committed r ∧ ¬same committed →
    t.sli = (s.sli.afterCommit s.tbu.cycle).afterDemand t.ab.demand s.tbu.cycle ∧
    t.mem.Shows 0x28 2 (stopItems 0 t.sli t.ab)) ∧
  (¬(committed r ∧ ¬same committed) → t.sli = s.sli.afterDemand t.ab.demand s.tbu.cycle)

/-- From `s` a WARN or STOP has been placed on the board and the machine is `t`; `refused` says that the board
refused it (R106 to R110). -/
def State.Places (s t : State) (a : Alarm) (refused : Bool) : Prop :=
  let window := 100 * s.site.settings.alarmWindow
  let now := s.tbu.siteTime
  let keyed (r : AlarmRecord) : Prop :=
    r.train = a.train ∧ r.axle = a.axle ∧ r.rail = a.rail ∧ r.kind = a.kind
  let at_ (p : Fin 32) : Option AlarmRecord := s.ab.positions.get p
  let unknown : Prop := ∀ (p : Fin 32) (r : AlarmRecord), at_ p = some r → ¬keyed r
  let spentAt (p : Fin 32) : Prop := ∃ r : AlarmRecord, at_ p = some r ∧ r.Spent
  (∀ (p : Fin 32) (r : AlarmRecord), at_ p = some r → keyed r → refused = false ∧
    let r' := r.afterAlarm a window now
    (r' = r → t = s) ∧
    (r' ≠ r → s.RecordTaken t p (some r) r' [] ∧
      (∀ q : Fin 32, q ≠ p → t.ab.versions.get q = s.ab.versions.get q) ∧
      t.ab.order = s.ab.order ∧ t.ab.nextId = s.ab.nextId)) ∧
  (unknown → ∀ p : Fin 32, at_ p = none → (∀ q : Fin 32, q < p → at_ q ≠ none) → refused = false ∧
    ∃ id : Nat, s.ab.FreshId s.ab.nextId id ∧ s.RecordTaken t p none (a.record id window now) [] ∧
      (∀ q : Fin 32, q ≠ p → t.ab.versions.get q = s.ab.versions.get q) ∧
      t.ab.order = s.ab.order ++ [p] ∧ t.ab.nextId = if id < 65535 then id + 1 else 1) ∧
  (unknown → (∀ p : Fin 32, at_ p ≠ none) → ∀ (p : Fin 32) (before behind : List (Fin 32)),
    s.ab.order = before ++ p :: behind → (∀ q ∈ before, ¬spentAt q) → spentAt p → s.ab.order.Nodup →
    refused = false ∧ ∃ id : Nat,
      Board.FreshId { s.ab with positions := s.ab.positions.set p.val none p.isLt } s.ab.nextId id ∧
      s.RecordTaken t p none (a.record id window now) behind ∧
      (∀ q ∈ behind, t.ab.versions.get q = succCount (s.ab.versions.get q) ∧ t.ShowsPosition q) ∧
      (∀ q : Fin 32, q ≠ p → q ∉ behind → t.ab.versions.get q = s.ab.versions.get q) ∧
      t.ab.order = before ++ behind ++ [p] ∧ t.ab.nextId = if id < 65535 then id + 1 else 1) ∧
  (unknown → (∀ p : Fin 32, at_ p ≠ none) → (∀ p ∈ s.ab.order, ¬spentAt p) → refused = true ∧
    (a.level ≠ .stop → t = s) ∧
    (a.level = .stop →
      t = { s with
        ab := { s.ab with unlistedStops := min 65535 (s.ab.unlistedStops + 1) }
        sli := (s.sli.afterCommit s.tbu.cycle).afterDemand true s.tbu.cycle
        mem := t.mem, atu := { s.atu with pending := s.atu.pending ||| 0x02#8 } } ∧
      s.mem.SameOutside t.mem 0x28 8 ∧ t.mem.Shows 0x28 2 (stopItems 0 t.sli t.ab)))

/-- A train's alarm entry list after an alarm that the board refused or not, the board holding the record `id` for
its key, or none for 0 (R100, R101). -/
def Buffer.Lists (x y : Buffer) (a : Alarm) (id : Nat) (refused : Bool) : Prop :=
  let keyed (e : AlarmEntry) : Prop := e.axle = a.axle ∧ e.rail = a.rail ∧ e.kind = a.kind
  y = { x with alarms := y.alarms, unlistedEntries := y.unlistedEntries, boardFull := y.boardFull } ∧
  y.boardFull = (x.boardFull || refused) ∧
  ((∃ e ∈ x.alarms, keyed e) →
    y.unlistedEntries = x.unlistedEntries ∧ y.alarms.length = x.alarms.length ∧
    ∀ (k : Nat) (e : AlarmEntry), x.alarms[k]? = some e →
      (¬keyed e → y.alarms[k]? = some e) ∧
      (keyed e → y.alarms[k]? = some { e with
        value := a.value, level := if e.level.code < a.level.code then a.level else e.level
        threshold := if e.level.code < a.level.code then a.threshold else e.threshold
        id := if refused then e.id else id, unboarded := e.unboarded || refused })) ∧
  ((∀ e ∈ x.alarms, ¬keyed e) →
    (x.alarms.length < 64 → y.unlistedEntries = x.unlistedEntries ∧ y.alarms = x.alarms ++
      [{ axle := a.axle, rail := a.rail, kind := a.kind, level := a.level, value := a.value
         threshold := a.threshold, id := id, unboarded := refused, outcome := none }]) ∧
    (64 ≤ x.alarms.length → y.alarms = x.alarms ∧ y.unlistedEntries = x.unlistedEntries + 1))

/-- A record of one position in two states of the machine is the same record, which has only moved on as R105 and
R107 allow: its id and its key stand, its level has not fallen, a VETOED record is VETOED still, and one that
has become PENDING was INFORMED or CLEARED. -/
def AlarmRecord.MovesTo (r r' : AlarmRecord) : Prop :=
  r'.id = r.id ∧ r'.train = r.train ∧ r'.axle = r.axle ∧ r'.rail = r.rail ∧ r'.kind = r.kind ∧
  r.level.code ≤ r'.level.code ∧
  match r.state with
  | .informed => r'.state = .informed ∨ r'.state = .pending ∨ r'.state = .committed
  | .pending => r'.state = .pending ∨ r'.state = .committed ∨ r'.state = .vetoed
  | .committed => r'.state = .committed ∨ r'.state = .cleared
  | .vetoed => r'.state = .vetoed
  | .cleared => r'.state = .cleared ∨ r'.state = .pending ∨ r'.state = .committed

/-- A record has been created: it has had no decision, and it is INFORMED, PENDING or COMMITTED (R108). -/
def AlarmRecord.IsNew (r : AlarmRecord) : Prop :=
  r.decision = .none ∧ r.deferred = false ∧
  (r.state = .informed ∨ r.state = .pending ∨ r.state = .committed)

/-- The positions of the board in two states of the machine: a record stands and has moved on, or was spent and has
given its position to a new one; an empty position stays empty or has taken a new record (R105, R108,
R109). -/
def State.BoardMovesTo (s t : State) : Prop :=
  ∀ p : Fin 32, match s.ab.positions.get p with
    | some r => ∃ r' : AlarmRecord, t.ab.positions.get p = some r' ∧ (r.MovesTo r' ∨ r.Spent ∧ r'.IsNew)
    | none => ∀ r' : AlarmRecord, t.ab.positions.get p = some r' → r'.IsNew

/-! ### The site reset (section 10.5) -/

/-- From `s` a site reset has reached the board, the stop line, the settlements and the tracker, and the machine is `t`,
in which no CLOSING buffer has finished its close yet (R47, R54, R121, R134): every PENDING record is COMMITTED, each
with its own commit event, mirror write and attention; the SE is idle, and the entry of an abandoned settlement is PASSED
again; the open train and the approach are gone, and the stuck timers run. Nothing else has changed, no byte of the
memory among it. That a FREE buffer holds a blank record is the model's choice (notes/assumptions/33). -/
def State.DropsWork (s t : State) : Prop :=
  let pending (p : Fin 32) : Prop := ∃ r ∈ s.ab.positions.get p, r.state = .pending
  let abandons (b : Fin 4) (f : Settlement) : Prop :=
    s.se.inFlight = some f ∧ s.bufferOf f.request.train = some b
  t = { s with
    wdi := t.wdi, se := { s.se with queue := [], inFlight := none }
    tt := { s.tt with tracker := .idle, countOnly := none, buffers := t.tt.buffers }
    ab := { s.ab with positions := t.ab.positions, versions := t.ab.versions }
    sli := t.sli, mem := t.mem, atu := t.atu } ∧
  (∀ d : Det, t.detector d = (s.detector d).supervised s.tbu.cycle) ∧
  (∀ b : Fin 4, (s.buffer b).state = .opened → (∀ a : Fin 4, (s.buffer a).state = .opened → a = b) →
    t.buffer b = Buffer.empty) ∧
  (∀ b : Fin 4, (s.buffer b).state ≠ .opened →
    (∀ f : Settlement, abandons b f → t.buffer b = { s.buffer b with
      axles := (s.buffer b).axles.modify f.request.axle (fun e =>
        if e.state = .settling then { e with state := .passed } else e) }) ∧
    ((∀ f : Settlement, ¬abandons b f) → t.buffer b = s.buffer b)) ∧
  (∀ p : Fin 32, t.ab.positions.get p = (s.ab.positions.get p).map (fun r =>
    if r.state = .pending then { r with state := .committed, deadline := none } else r)) ∧
  (∀ p : Fin 32, pending p → t.ab.versions.get p = succCount (s.ab.versions.get p) ∧ t.ShowsPosition p) ∧
  (∀ p : Fin 32, ¬pending p → t.ab.versions.get p = s.ab.versions.get p) ∧
  (s.DemandHandedOn →
    let commits := (List.finRange 32).countP (fun p => decide (pending p))
    t.sli = ((fun l : StopLine => l.afterCommit s.tbu.cycle)^[commits] s.sli).afterDemand
      (s.ab.demand || decide (0 < commits)) s.tbu.cycle) ∧
  s.mem.SameButBoard t.mem pending ∧
  ((∃ p : Fin 32, pending p) → t.mem.Shows 0x28 2 (stopItems 0 t.sli t.ab) ∧
    t.atu = { s.atu with pending := s.atu.pending ||| 0x02#8 }) ∧
  ((∀ p : Fin 32, ¬pending p) → t.sli = s.sli ∧ t.mem = s.mem ∧ t.atu = s.atu)

/-- From `s` a site reset has ended every order, and the live hold, and the machine is `t` (R169, R180): a QUEUED, RUNNING
or WAITING order is DONE in its slot, ABORTED with both result words 0, which the slot's words show; every other slot,
and every other byte of the memory, is as it was; and ORDER is pending when an order has ended. -/
def State.EndsOrders (s t : State) : Prop :=
  let waiting (n : Fin 16) : Prop := (s.ou.slots.get n).state ≠ .idle ∧ (s.ou.slots.get n).state ≠ .done
  t = { s with
    ou := { slots := t.ou.slots, queue := [], running := none, waiting := none }
    lvu := { s.lvu with hold := none }, mem := t.mem, atu := t.atu } ∧
  (∀ n : Fin 16, waiting n → t.ou.slots.get n =
    { s.ou.slots.get n with state := .done, outcome := .aborted, result1 := 0, result2 := 0 } ∧ t.ShowsSlot n) ∧
  (∀ n : Fin 16, ¬waiting n → t.ou.slots.get n = s.ou.slots.get n) ∧
  (∀ a : Nat, (∀ n : Fin 16, waiting n → ¬(slotBase n + 0x04 ≤ a ∧ a < slotBase n + 0x0C) ∧
    ¬(slotBase n + 0x20 ≤ a ∧ a < slotBase n + 0x28)) → t.mem.readByte a = s.mem.readByte a) ∧
  ((∃ n : Fin 16, waiting n) → t.atu = { s.atu with pending := s.atu.pending ||| 0x08#8 }) ∧
  ((∀ n : Fin 16, ¬waiting n) → t.atu = s.atu)

/-! ### The configuration (sections 10.1 and 10.2) -/

/-- The fields 0 to 27, each with the bounds of its range: lower, upper, value. -/
def Settings.ranged (c : Settings) : List (Nat × Nat × Nat) :=
  [(30, 600, c.stuckLimit), (10, 900, c.approachTimeout), (10, 600, c.quietTimeout), (300, 14400, c.openLimit),
   (50, 600, c.cribWindow), (50, 400, c.scanWindow), (300, 100000, c.vLoadMin), (300, 100000, c.vLoadMax),
   (300, 100000, c.vFlatMin), (300, 100000, c.vScanMin), (300, 100000, c.vScanMax), (1, 65535, c.dWarn),
   (1, 65535, c.dStop), (1, 65535, c.qStop), (1, 65535, c.lMin), (0, 65535, c.overloadExcess), (1, 100, c.imbPct),
   (1000, 6000, c.defaultAxleLimit), (1000, 4000, c.bogieMax), (1, 3000, c.hotWarn), (1, 3000, c.hotStop),
   (1, 3000, c.wheelWarn), (1, 3000, c.wheelStop), (1, 3000, c.diffWarn), (0, 100, c.alarmWindow),
   (100, 5000, c.ackTimeout), (100, 2000, c.pulseWidth), (256, 5120, c.highMark)]

/-- The fields as the words of the configuration area give them (section 10.2, R197). -/
def Settings.WrittenIn (c : Settings) (m : Memory) : Prop :=
  let word (offset : Nat) : Nat := (m.readWord (0x2C00 + offset)).toNat
  (∀ (k : Nat) (x : Nat × Nat × Nat), c.ranged[k]? = some x → x.2.2 = word (4 * k)) ∧
  (∀ i : Fin 16, c.driftLimits.get i = word (0x70 + 4 * i.val) ∧
    c.zeroRefs.get i = (m.readWord (0x2C00 + (0xB0 + 4 * i.val))).toInt ∧
    c.gains.get i = word (0xF0 + 4 * i.val) ∧ c.cribs.get i = word (0x140 + 4 * i.val)) ∧
  (∀ i : Fin 4, c.scanners.get i = word (0x180 + 4 * i.val)) ∧
  c.g1 = word 0x130 ∧ c.g2 = word 0x134 ∧ c.g3 = word 0x138 ∧ c.averaging = word 0x13C ∧ c.lowMark = word 0x190 ∧
  (c.railSwap = true ↔ word 0x194 ≠ 0) ∧ (c.lineMode = .pulse ↔ word 0x198 ≠ 0)

/-- `c` is `written` with the fields 0 to 30 clamped to their ranges, and `clamps` has a bit for each field in which a
value has been replaced (R183). -/
def Settings.ClampOf (c written : Settings) (clamps : Word) : Prop :=
  c.ranged = written.ranged.map (fun x => (x.1, x.2.1, max x.1 (min x.2.1 x.2.2))) ∧
  (∀ i : Fin 16, c.driftLimits.get i = max 1 (min 32767 (written.driftLimits.get i)) ∧
    c.zeroRefs.get i = max (-32768) (min 32767 (written.zeroRefs.get i)) ∧
    c.gains.get i = min 65535 (written.gains.get i)) ∧
  c.g1 = written.g1 ∧ c.g2 = written.g2 ∧ c.g3 = written.g3 ∧ c.averaging = written.averaging ∧
  c.cribs = written.cribs ∧ c.scanners = written.scanners ∧ c.lowMark = written.lowMark ∧
  c.railSwap = written.railSwap ∧ c.lineMode = written.lineMode ∧
  ∀ k : Nat, clamps.getLsbD k = true ↔
    (∃ x : Nat × Nat × Nat, written.ranged[k]? = some x ∧ (x.2.2 < x.1 ∨ x.2.1 < x.2.2)) ∨
    (k = 28 ∧ ∃ i : Fin 16, written.driftLimits.get i < 1 ∨ 32767 < written.driftLimits.get i) ∨
    (k = 29 ∧ ∃ i : Fin 16, written.zeroRefs.get i < -32768 ∨ 32767 < written.zeroRefs.get i) ∨
    (k = 30 ∧ ∃ i : Fin 16, 65535 < written.gains.get i)

/-- The check of a field of a clamped candidate fails (R184). -/
def Settings.Fails (c : Settings) (field : Nat) : Prop :=
  let leaves (w p : Nat) : Prop := (2 * p : Int) - w < 2 * c.g1 ∨ 2 * c.g3 < 2 * p + w
  field = 12 ∧ c.dStop < c.dWarn ∨ field = 20 ∧ c.hotStop < c.hotWarn ∨
  field = 22 ∧ c.wheelStop < c.wheelWarn ∨ field = 30 ∧ (∃ i : Fin 16, c.gains.get i = 0) ∨
  field = 31 ∧ 20000 < c.g1 ∨ field = 32 ∧ (c.g2 ≤ c.g1 ∨ 20000 < c.g2) ∨
  field = 33 ∧ (c.g3 ≤ c.g2 ∨ 20000 < c.g3) ∨ field = 34 ∧ c.averaging ∉ [1, 2, 4, 8] ∨
  field = 35 ∧ (∃ i : Fin 16, leaves c.cribWindow (c.cribs.get i)) ∨
  field = 36 ∧ (∃ i : Fin 4, leaves c.scanWindow (c.scanners.get i)) ∨ field = 37 ∧ c.highMark ≤ c.lowMark

/-- A configuration lies in the ranges of section 10.2 and passes every check of R184. -/
def Settings.Sound (c : Settings) : Prop :=
  (∀ x ∈ c.ranged, x.1 ≤ x.2.2 ∧ x.2.2 ≤ x.2.1) ∧
  (∀ i : Fin 16, 1 ≤ c.driftLimits.get i ∧ c.driftLimits.get i ≤ 32767 ∧ -32768 ≤ c.zeroRefs.get i ∧
    c.zeroRefs.get i ≤ 32767 ∧ c.gains.get i ≤ 65535) ∧
  ∀ k : Nat, ¬c.Fails k

/-- The working configuration, and the pending configuration of a WAITING ARM, are sound (R181, R183 to R185). -/
def State.ConfigurationSound (s : State) : Prop :=
  s.site.settings.Sound ∧
  ∀ (n : Fin 16) (c : Settings) (clamps : Word), s.ou.waiting = some (.arm n c clamps) → c.Sound

/-- The stop line after a change of its mode at a latch (R133). -/
def StopLine.afterMode (l : StopLine) (mode : LineMode) (now : Cycle) : StopLine :=
  let l := { l with mode := mode, fault := false, owed := false }
  match mode with
  | .pulse =>
    if l.demand then
      { l with phase := .pulsing, attempt := some 1, stopOut := true, ackTimer := none
               pulseTimer := some now, listenTimer := some now }
    else { l with phase := .idle, attempt := none, stopOut := false, ackTimer := none
                  pulseTimer := none, listenTimer := none }
  | .level => { l with
      phase := .idle, attempt := none, stopOut := l.demand, pulseTimer := none, listenTimer := none
      ackTimer := if l.ackLevel = l.demand then none else some now }

/-! ### The latch (section 10.3) -/

/-- An attempt of a pulse sequence starts (R128). -/
def StopLine.attempting (l : StopLine) (k : Nat) (now : Cycle) : StopLine :=
  { l with phase := .pulsing, attempt := some k, stopOut := true, pulseTimer := some now, listenTimer := some now }

/-- A pulse sequence has ended, and an owed one starts in SPACING (R131). -/
def StopLine.ended (l : StopLine) (now : Cycle) : StopLine :=
  if l.owed then { l with phase := .spacing, attempt := none, stopOut := false, owed := false
                          pulseTimer := some now, listenTimer := none }
  else { l with phase := .idle, attempt := none, stopOut := false, pulseTimer := none, listenTimer := none }

/-- The stop line after its pulse timer has run out, in a phase in which it runs (R128). -/
def StopLine.afterPulse (l : StopLine) (now : Cycle) : StopLine :=
  match l.phase with
  | .trailing => l.ended now
  | .spacing => l.attempting 1 now
  | _ => { l with stopOut := false, pulseTimer := none, phase := .listening }

/-- The stop line after the listen timer of attempt `k` has run out (R128). -/
def StopLine.afterListen (l : StopLine) (k : Nat) (now : Cycle) : StopLine :=
  if k < 3 then l.attempting (k + 1) now
  else match l.phase with
    | .pulsing => { l with fault := true, phase := .trailing, attempt := none, listenTimer := none }
    | _ => { l with fault := true }.ended now

/-- A timer of the stop line runs and has reached a number of milliseconds (R123). -/
def State.Reached (s : State) (timer : Option Cycle) (n : Nat) : Prop :=
  ∃ start ∈ timer, 10000 * n ≤ (s.tbu.cycle - start).toNat

/-- The stop line after a latch of a configuration that leaves its mode as it was, and whether STOP_FAULT is raised: a
timer that already reaches its new value has run out, of the pulse and the listen timer the pulse timer first (R123,
R125, R128; the order is the model's choice, notes/assumptions/31). The premises say which timers run in a mode and a
phase. -/
def State.LineAtLatch (s : State) (after : StopLine) (raised : Bool) (c : Settings) : Prop :=
  let l := s.sli
  let now := s.tbu.cycle
  let ack : Prop := s.Reached l.ackTimer c.ackTimeout
  let pulse : Prop := s.Reached l.pulseTimer c.pulseWidth
  let listen : Prop := s.Reached l.listenTimer c.ackTimeout
  (l.mode = .level → l.pulseTimer = none → l.listenTimer = none →
    (ack → after = { l with ackTimer := none, fault := true } ∧ raised = true) ∧
    (¬ack → after = l ∧ raised = false)) ∧
  (l.mode = .pulse → l.ackTimer = none → (pulse → l.phase = .pulsing ∨ l.phase = .trailing ∨ l.phase = .spacing) →
    (¬pulse → ¬listen → after = l ∧ raised = false) ∧
    (pulse → ¬listen → after = l.afterPulse now ∧ raised = false) ∧
    ∀ k : Nat, l.attempt = some k → l.phase = .pulsing ∨ l.phase = .listening →
      (listen → raised = decide (3 ≤ k)) ∧
      (¬pulse → listen → after = l.afterListen k now) ∧
      (pulse → listen → after = (l.afterPulse now).afterListen k now))

/-- From `u`, in which no train is OPEN and no buffer CLOSING, the checked configuration `c` has been latched and the
machine is `v`, but for the answer of the order (R7, R14, R25, R123, R133, R153, R186). -/
def State.LatchesTo (u v : State) (c : Settings) : Prop :=
  let old := u.site.settings
  let now := u.tbu.cycle
  let stuck (d : Det) : Prop := (u.detector d).service = .inService ∧ ∃ start ∈ (u.detector d).stuckTimer,
    10000000 * c.stuckLimit < (now - start).toNat
  let idles : Prop := ∃ a : Approach, u.tt.tracker = .approach a ∧
    10000000 * c.approachTimeout < (now - a.timer).toNat
  let marks : Prop := old.highMark ≠ c.highMark ∨ old.lowMark ≠ c.lowMark
  let high : Prop := marks ∧ u.rpw.highArmed = true ∧ c.highMark ≤ u.rpw.unreleased
  let low : Prop := marks ∧ u.rpw.highArmed = false ∧ u.rpw.unreleased ≤ c.lowMark
  v = { u with site := v.site, wdi := v.wdi, sau := v.sau, se := v.se, tt := { u.tt with tracker := v.tt.tracker }
               sli := v.sli, rpw := v.rpw, atu := { u.atu with pending := v.atu.pending }, mem := v.mem } ∧
  v.site = { mode := .watch, latched := true, settings := c, latchCount := u.site.latchCount + 1 } ∧
  (∀ a : Nat, (4 ≤ a ∧ a < 8) ∨ 0x30 ≤ a → v.mem.readByte a = u.mem.readByte a) ∧
  v.mem.Shows 0x20 2 [(0, 0, 2, 3), (1, 0, 32, v.site.latchCount.toNat)] ∧
  (old.averaging = c.averaging → v.sau = u.sau ∧ v.se = u.se) ∧
  (old.averaging ≠ c.averaging → 0 < c.averaging → v.sau = { u.sau with channels := v.sau.channels } ∧
    v.se = { u.se with lastEnd := v.se.lastEnd } ∧ ∀ i : Fin 16,
    let x := v.sau.channels.get i
    x = { u.sau.channels.get i with history := [], flatRun := none, next := x.next } ∧
    now.toNat ≤ x.next * (500 * c.averaging) ∧ x.next * (500 * c.averaging) < now.toNat + 500 * c.averaging ∧
    v.se.lastEnd.get i = none) ∧
  (∀ d : Det,
    (stuck d → v.detector d = { u.detector d with service := .stuck, entrySide := none, stuckTimer := none }) ∧
    (¬stuck d → idles → v.detector d = (u.detector d).supervised now) ∧
    (¬stuck d → ¬idles → v.detector d = u.detector d)) ∧
  (idles → v.tt.tracker = .idle) ∧ (¬idles → v.tt.tracker = u.tt.tracker) ∧
  (u.sli.mode ≠ c.lineMode → v.sli = u.sli.afterMode c.lineMode now) ∧
  (u.sli.mode = c.lineMode → 0 < c.ackTimeout → ∃ raised : Bool, u.LineAtLatch v.sli raised c ∧
    v.atu.pending.getLsbD 2 = (u.atu.pending.getLsbD 2 || raised)) ∧
  (v.sli ≠ u.sli → v.mem.Shows 0x28 2 (stopItems 0 v.sli v.ab)) ∧
  (v.sli = u.sli → 0 < c.ackTimeout → 0 < c.pulseWidth →
    ∀ a : Nat, 0x28 ≤ a → a < 0x30 → v.mem.readByte a = u.mem.readByte a) ∧
  (high → v.rpw = { u.rpw with highArmed := false }) ∧ (low → v.rpw = { u.rpw with highArmed := true }) ∧
  (¬high → ¬low → v.rpw = u.rpw) ∧
  (v.rpw = u.rpw → u.mem.SameOutside v.mem 0x20 0x10) ∧
  (v.rpw ≠ u.rpw → v.mem.readWord 0 = v.rpw.lastWritten ∧ v.mem.Shows 8 6 v.rpw.siteItems) ∧
  (high → v.atu.pending.getLsbD 4 = true) ∧ (¬high → v.atu.pending.getLsbD 4 = u.atu.pending.getLsbD 4) ∧
  ((∃ d : Det, stuck d) → v.atu.pending.getLsbD 6 = true) ∧
  ((∀ d : Det, ¬stuck d) → v.atu.pending.getLsbD 6 = u.atu.pending.getLsbD 6) ∧
  (u.sli.mode ≠ c.lineMode → v.atu.pending.getLsbD 2 = u.atu.pending.getLsbD 2) ∧
  ∀ k : Nat, k ≠ 2 → k ≠ 4 → k ≠ 6 → v.atu.pending.getLsbD k = u.atu.pending.getLsbD k

/-! ### The consist area (section 11.5) -/

/-- A byte of vehicle record `n` of the consist area (R157, R197). -/
def Memory.vehicleByte (m : Memory) (n k : Nat) : Nat := (m.readByte (0x3000 + 32 * n + k)).toNat

/-- Vehicle record `n` of the consist area fails the checks of R87: the tag length, a character within it, the axle
count or the kind code (R197). -/
def Memory.VehicleFails (m : Memory) (n : Nat) : Prop :=
  let byte := m.vehicleByte n
  12 < byte 12 ∨ (∃ k : Nat, k < byte 12 ∧ (byte k < 0x20 ∨ 0x7E < byte k)) ∨ byte 13 = 0 ∨ 16 < byte 13 ∨
  byte 14 = 0 ∨ 3 < byte 14

/-- Vehicle record `n` of the consist area holds the vehicle (R86, R197). -/
def Vehicle.WrittenAt (v : Vehicle) (m : Memory) (n : Nat) : Prop :=
  let byte := m.vehicleByte n
  v.tag.map BitVec.toNat = (List.range (byte 12)).map byte ∧ v.axles = byte 13 ∧ v.kind.code = byte 14 ∧
  v.limit = byte 16 + 256 * byte 17

/-- The values after a full reset that the manual states, block by block. -/
def State.JustReset (s : State) : Prop :=
  let c := s.site.settings
  s.site.mode = .halt ∧ s.site.latched = false ∧ s.site.latchCount = 0 ∧
  c.ranged.map (fun x => x.2.2) = [120, 300, 60, 3600, 300, 150, 1389, 44444, 4167, 1389, 55556, 700, 1500, 768, 300,
    400, 15, 3200, 3000, 600, 900, 2000, 2800, 250, 30, 1000, 500, 4096] ∧
  c.driftLimits.toList = List.replicate 16 1000 ∧ c.zeroRefs.toList = List.replicate 16 0 ∧
  c.gains.toList = List.replicate 16 16384 ∧ c.g1 = 0 ∧ c.g2 = 3000 ∧ c.g3 = 6000 ∧ c.averaging = 4 ∧
  (let rail := [900, 1500, 2100, 2700, 3300, 3900, 4500, 5100]; c.cribs.toList = rail ++ rail) ∧
  c.scanners.toList = [4200, 4200, 4200, 4200] ∧ c.lowMark = 2048 ∧ c.railSwap = false ∧ c.lineMode = .level ∧
  (∀ d : Det, (s.detector d).decoder = .clear ∧ (s.detector d).stuckTimer = none ∧
    (s.detector d).service = .inService) ∧
  (∀ i : Fin 16, let x := s.sau.channels.get i
    x.history = [] ∧ x.next = 0 ∧ x.baseline = none ∧ x.flatRun = none ∧ x.service = .inService) ∧
  (∀ l : Fin 4, let x := s.tsu.scanners.get l
    x.history = [] ∧ x.ambient = none ∧ x.linkTimer = 0 ∧ x.service = .inService) ∧
  s.tbu.cycle = 0 ∧ s.tbu.rate = 10000000 ∧ s.tbu.trim = .none ∧ s.tbu.prevPulse = none ∧ s.tbu.siteTime = 0 ∧
  s.tbu.accumulator = 0 ∧
  s.tt.tracker = .idle ∧ s.tt.trainNumber = 0 ∧ s.tt.countOnly = none ∧ (∀ b : Fin 4, (s.buffer b).state = .free) ∧
  s.next = none ∧ s.se.queue = [] ∧ s.se.inFlight = none ∧ (∀ i : Fin 16, s.se.lastEnd.get i = none) ∧
  (∀ p : Fin 32, s.ab.positions.get p = none ∧ s.ab.versions.get p = 0) ∧ s.ab.nextId = 1 ∧
  s.ab.unlistedStops = 0 ∧
  s.sli = { mode := .level, stopOut := false, ackLevel := false, demand := false, fault := false, ackTimer := none
            phase := .idle, attempt := none, pulseTimer := none, listenTimer := none, owed := false, stray := 0 } ∧
  s.rpw = { held := [], write := none, lastWritten := 0, accepted := 0, position := 0, oldest := 0, unreleased := 0
            index := [], highArmed := true, lost := 0 } ∧
  (∀ n : Fin 16, s.ou.slots.get n = { state := .idle, outcome := .none, ticket := 0, result1 := 0, result2 := 0 }) ∧
  s.ou.queue = [] ∧ s.ou.running = none ∧ s.ou.waiting = none ∧ s.atu.pending = 0 ∧ s.atu.mask = 0 ∧
  s.lvu.generation = 0 ∧ s.lvu.hold = none

end Sys2Proof.Machine
end

