-- ==== Sys2Proof/Certificates/Slice0/Obligations.lean ====
section
/-!
DEFINITION. The statements for the provers. In each, `u` is the state at the command's instant: the clock has
run on to it (`State.advance`) and nothing else has changed. That a command carries its instant, and that an
instant not ahead of the counter leaves the clock, is the model's choice (notes/assumptions/1); that a timed
event taken outside its condition has no effect is the same choice. A follow-up with a row of its own (the take of
the next order or request, extraction, the close computations after a train's last request, the start of a report's
write, the completion of a WAITING order) is a step of its own and has not happened in a command's next state: the
model's reading (notes/assumptions/8). Which operands a command carries beside those its rule names, and that a
completion has its effect at whatever instant its command comes, is the model's choice (notes/assumptions/13, 15, 16).
-/

open Sys2Proof Sys2Proof.Machine

/-! ### The machine as a whole -/

/-- A step takes the command at the front of the queue and runs it with the queue's rest. On an empty queue a
running part takes an event of its own that is due, and with none due one cycle passes: the counter gains 1
and the millisecond accumulator 1,000 (R20, R23). The queue, and what an empty one does, are the model's own
(notes/assumptions/2, 12). -/
def Obligations.StepTakesTheFrontCommand : Prop :=
  (∀ (c : Instr) (rest : List Instr) (s : State), s.pending = c :: rest →
    step s = exec c { s with pending := rest }) ∧
  (∀ s : State, s.pending = [] →
    (s.power.held = true → step s = .next s) ∧
    (s.Running → (∀ c : Instr, ¬s.Due c) → step s = .next { s with tbu := { s.tbu with
      cycle := s.tbu.cycle + 1, rateInForce := s.tbu.rate, accumulator := s.tbu.accumulator + 1000 } }) ∧
    (s.Running → (∃ c : Instr, s.Due c) → ∃ c : Instr, s.Due c ∧ step s = exec c s))

/-- Every command answers a next state in every state, and the effect of a command leaves the queue alone
(notes/assumptions/37). -/
def Obligations.EveryCommandCompletes : Prop :=
  ∀ (c : Instr) (s : State), ∃ t : State, exec c s = .next t ∧ t.pending = s.pending

/-- R200: while the part is held in full reset, no command but POWER_RESET changes anything. The model's
reading, notes/assumptions/10. -/
def Obligations.HeldPartTakesNoCommand : Prop :=
  ∀ (c : Instr) (s : State), s.power.held = true →
    (∀ now resetN core io, c ≠ .powerReset now resetN core io) → exec c s = .next s

/-- R20, R23, R157: a dropped write has no effect but that the cycle counter runs on to its instant and the
millisecond accumulator gains 1,000 for each cycle; at an instant that is not ahead not even that (the
model's choice, notes/assumptions/1, 32). -/
def Obligations.DroppedWriteRunsOnlyTheClock : Prop :=
  ∀ (now : Cycle) (addr : BusAddr) (v : Word) (s : State), s.Running →
    let d := (now - s.tbu.cycle).toNat
    (0 < d → d < 2 ^ 63 → exec (.droppedWrite now addr v) s = .next { s with tbu := { s.tbu with
      cycle := now, rateInForce := s.tbu.rate, accumulator := s.tbu.accumulator + 1000 * d } }) ∧
    (d = 0 ∨ 2 ^ 63 ≤ d → exec (.droppedWrite now addr v) s = .next s)

/-! ### Wheel detectors and the tracker -/

/-- R4, R5, R7: an accepted edge moves the decoder by the table of R4, with the entry side and the candidate the table
and R5 give, and touches no other decoder and no service state. One that leaves CLEAR with the tracker in IDLE or
APPROACH starts the stuck timer of an in-service detector, or leaves it running from its earlier start, one between
two occupied states leaves it, and one that returns to CLEAR cancels it. That the timer starts at the cycle at which
the edge is accepted, and only on a detector in service, is the model's reading (notes/assumptions/19). -/
def Obligations.EdgeFollowsTheDecoderTable : Prop :=
  ∀ (now since : Cycle) (det : Det) (e : Element) (covered : Bool) (old new : DecoderState) (s : State),
    let u := s.advance now
    let d := u.detector det
    s.Running → (old, e, covered, new) ∈ decoderTable → d.decoder = old → u.StoodFor since 2000 →
    ∃ t : State, exec (.elementEdge now det e covered since) s = .next t ∧
      (t.detector det).decoder = new ∧ (t.detector det).service = d.service ∧
      (old = .clear → (t.detector det).entrySide = some (match e with | .e1 => .west | .e2 => .east) ∧
        (t.detector det).candidate = none) ∧
      (old = .both → (t.detector det).entrySide = d.entrySide ∧
        (t.detector det).candidate = some since) ∧
      (new = .both → (t.detector det).entrySide = d.entrySide ∧
        (t.detector det).candidate = d.candidate) ∧
      (new = .clear → (t.detector det).entrySide = none ∧ (t.detector det).candidate = none) ∧
      (old = .clear → u.tt.tracker ≠ .opened → d.service = .inService →
        (t.detector det).stuckTimer = some (d.stuckTimer.getD u.tbu.cycle)) ∧
      (old = .clear → d.service ≠ .inService → (t.detector det).stuckTimer = d.stuckTimer) ∧
      (old ≠ .clear → new ≠ .clear → (t.detector det).stuckTimer = d.stuckTimer) ∧
      (new = .clear → (t.detector det).stuckTimer = none) ∧
      ∀ d' : Det, d' ≠ det →
        (t.detector d').decoder = (u.detector d').decoder ∧
        (t.detector d').entrySide = (u.detector d').entrySide ∧
        (t.detector d').candidate = (u.detector d').candidate ∧
        (t.detector d').service = (u.detector d').service

/-- R3 to R6, R182: a level that has not stood for 2,000 cycles of the counter makes no edge; and an accepted edge in
HALT with no train open, or on a detector that is not in service, a train open or not, changes nothing but its
detector: its crossing is dropped. An accepted edge that ends no crossing changes nothing but its detector while no
train is open, at an approach sensor, and into and out of BOTH; what one does at a gate of an open train is said in
TimersCloseTheOpenTrain. That a level which stood across the wrap of the 64-bit counter counts as one that has not
stood is the model's choice (notes/assumptions/40). -/
def Obligations.DroppedCrossingChangesOnlyItsDetector : Prop :=
  ∀ (now since : Cycle) (det : Det) (e : Element) (covered : Bool) (s : State), s.Running →
    let u := s.advance now
    (¬u.StoodFor since 2000 → exec (.elementEdge now det e covered since) s = .next u) ∧
    ((u.trainOpen = false ∧ u.site.mode = .halt) ∨ (u.detector det).service ≠ .inService →
      ∃ t : State, exec (.elementEdge now det e covered since) s = .next t ∧
        t = { u with wdi := t.wdi } ∧ ∀ d' : Det, d' ≠ det → t.detector d' = u.detector d') ∧
    (∀ old new : DecoderState, (old, e, covered, new) ∈ decoderTable → (u.detector det).decoder = old →
      u.StoodFor since 2000 →
      (new = .clear → ¬((u.detector det).entrySide = some .west ∧ e = .e2) ∧
        ¬((u.detector det).entrySide = some .east ∧ e = .e1)) →
      u.trainOpen = false ∨ det = .apW ∨ det = .apE ∨ old = .both ∨ new = .both →
      ∃ t : State, exec (.elementEdge now det e covered since) s = .next t ∧
        t = { u with wdi := t.wdi } ∧ ∀ d' : Det, d' ≠ det → t.detector d' = u.detector d')

/-- R26 to R28, R33, R35, R37, R40 to R42: a gate crossing taken in IDLE or APPROACH in WATCH opens a train in the
crossing's direction: in the lowest-numbered FREE buffer with the NEXT consist, or, with no buffer FREE, as a
count-only train that keeps the number of the listed vehicles. The record has the approach count, the marks and the
ambients; the channels' flat runs end when the tracker leaves IDLE; and the opening crossing is then taken: at the
entry gate it stages one axle, at G2 it enters entry 0 on a two-gate run, and at the exit gate it passes entry 0 under
substitution or finds no axle and sets *phantom*, whereupon a train with no approach count closes WITHDRAWN. What
becomes of a timer whose expiry a crossing of its very instant forgoes is the model's reading (notes/assumptions/39).
That a timer which a crossing starts counts from the cycle at which the crossing is taken is the model's reading
(notes/assumptions/45). That the write of a report that joins the held queue is a step of its own, which has not
happened in the next state, is the model's reading (notes/assumptions/8). That the crossing is taken before the change
of its gate's occupancy, and that the close conditions are evaluated with the gate already clear, is the model's
reading (notes/assumptions/25). That a report joins behind one whose number is exactly 2^31 away is the model's choice
(notes/assumptions/48). -/
def Obligations.EntryCrossingOpensATrain : Prop :=
  ∀ (now since c : Cycle) (dir : Dir) (det : Det) (place : Option (Fin 4)) (s : State),
    let u := s.advance now
    let ds (d : Det) : Detector :=
      { u.detectorsWith det (u.detector det).left d with stuckTimer := none }
    let number := succCount u.tt.trainNumber
    let r : TrainRecord :=
      { number := number, dir := dir, openTime := u.tbu.siteTime, closeTime := none, status := none
        entries := 0, f := 0, overflow := 0, x := 0, overflowExit := 0, staging := []
        entryNet := match u.tt.tracker, dir with
          | .approach a, .east => a.countW
          | .approach a, .west => a.countE
          | _, _ => 0
        exitNet := 0, revisits := 0, skipped := 0, underrun := false, phantom := false
        stagingOverflow := false, countDisagreement := false, tableOverflow := false
        substituted := decide ((u.detector .g2).service ≠ .inService)
        sensorFault := u.anyFaulted, untrimmed := decide (u.tbu.trim ≠ .trimmed), ambients := u.ambients
        quiet := .running u.tbu.cycle (10000000 * u.site.settings.quietTimeout)
        openLimit := some u.tbu.cycle }
    let base : State := { u.withDetectors ds with
      sau := if u.tt.tracker = .idle then
          { u.sau with channels := u.sau.channels.map (fun c => { c with flatRun := none }) }
        else u.sau
      tt := { u.tt with tracker := .opened, trainNumber := number }
      next := none, atu := { u.atu with pending := u.atu.pending ||| 0x20#8 } }
    let opened : State := match place with
      | some b => base.withBuffer b { Buffer.empty with state := .opened, record := r, consist := u.next }
      | none => { base with tt := { base.tt with
          countOnly := some { record := r, vehicles := u.next.map List.length } } }
    let entry (state : AxleState) (t2 t3 : Option Cycle) : List AxleEntry :=
      if place = none then [] else
        [{ state := state, run := { number := 1, t1 := none, t2 := t2, t3 := t3, broken := false, twoGate := true }
           revisits := 0, speed := none, load := none, temps := none, consistLate := false, alarmBits := 0
           bogie := 0, vehicle := 0 }]
    let gives (r' : TrainRecord) (axles : List AxleEntry) : Prop :=
      ∃ t : State, exec (.elementEdge now det (lastElement dir) false since) s = .next t ∧
        opened.TrainBecomes t ds place (opened.timed det ds r') axles
    s.Running → u.site.mode = .watch → (u.detector det).AboutToCross dir c → u.StoodFor since 2000 →
    u.tt.tracker ≠ .opened → u.trainOpen = false →
    (∀ b : Fin 4, place = some b →
      (u.buffer b).state = .free ∧ ∀ a : Fin 4, a < b → (u.buffer a).state ≠ .free) →
    (place = none → ∀ a : Fin 4, (u.buffer a).state ≠ .free) →
    (det = entryGateOf dir → gives { r with staging := [some c] } []) ∧
    (det = .g2 → gives { r with f := 1, entries := 1 } (entry .entered (some c) none)) ∧
    (det = exitGateOf dir → r.substituted = true →
      gives { r with f := 1, x := 1, entries := 1 } (entry .passed none (some c))) ∧
    (det = exitGateOf dir → r.substituted = false → gives { r with phantom := true } [])

/-- R33, R37, R38, R40, R41: a forward crossing at the reference gate of an open train (G2, and the exit gate of a
train with *reference substituted*) takes the head of the staging deque and re-enters the entry at the front position
on a new run, or appends a new entry on run 1, or, beyond 1024 entries, counts an overflow axle; a count-only train
moves its numbers alone. The crossing's time is T2, and under substitution T3 of an entry that is PASSED at once. Then
the close conditions are evaluated. That an expiry of the quiet or the open-limit timer which a crossing of its very
instant forgoes does not come later is the model's reading (notes/assumptions/39). That the quiet timer which the
crossing restarts counts from the cycle at which it is taken is the model's reading (notes/assumptions/45). That the
write of a report that joins the held queue is a step of its own, which has not happened in the next state, is the
model's reading (notes/assumptions/8). That the crossing is taken before the change of its gate's occupancy, and that
the close conditions are evaluated with the gate already clear, is the model's reading (notes/assumptions/25). That a
report joins behind one whose number is exactly 2^31 away is the model's choice (notes/assumptions/48). -/
def Obligations.ReferenceCrossingAdvancesTheFront : Prop :=
  ∀ (now since c : Cycle) (place : Option (Fin 4)) (r : TrainRecord) (axles : List AxleEntry) (s : State),
    let u := s.advance now
    let det : Det := if r.substituted then exitGateOf r.dir else .g2
    let ds := u.detectorsWith det (u.detector det).left
    let x : Nat := if r.substituted then r.x + 1 else r.x
    let state : AxleState := if r.substituted then .passed else .entered
    let run (n : Nat) : Run :=
      { number := n, t1 := r.staging.head?.join
        t2 := if r.substituted then none else some c
        t3 := if r.substituted then some c else none
        broken := false, twoGate := r.staging.head?.join.isNone }
    let gives (r' : TrainRecord) (axles' : List AxleEntry) : Prop :=
      ∃ t : State, exec (.elementEdge now det (lastElement r.dir) false since) s = .next t ∧
        u.TrainBecomes t ds place (u.timed det ds r') axles'
    s.Running → u.site.mode = .watch → (u.detector det).AboutToCross r.dir c → u.StoodFor since 2000 →
    u.OpenTrain place r axles →
    (r.f < r.entries →
      gives { r with f := r.f + 1, x := x, revisits := r.revisits + 1, staging := r.staging.tail }
        (axles.modify r.f (fun e =>
          { e with state := state, revisits := e.revisits + 1, run := run (e.run.number + 1) }))) ∧
    (r.entries ≤ r.f → r.entries < 1024 →
      gives { r with f := r.f + 1, x := x, entries := r.entries + 1, staging := r.staging.tail }
        (if place = none then [] else axles ++
          [{ state := state, run := run 1, revisits := 0, speed := none, load := none, temps := none
             consistLate := false, alarmBits := 0, bogie := 0, vehicle := 0 }])) ∧
    (r.entries ≤ r.f → 1024 ≤ r.entries →
      gives { r with overflow := r.overflow + 1, tableOverflow := true, staging := r.staging.tail } axles)

/-- R30 to R32, R34, R36, R37, R40, R41: the crossings of an open train, in a buffer or count-only, at the approach
sensors, at the entry gate, and in reverse at the reference gate and at the exit gate. Each moves the counts, the
staging deque and one axle entry of the train as its rule says, and nothing else but the train's timers; then the
close conditions are evaluated. That an expiry of the quiet or the open-limit timer which a crossing of its very
instant forgoes does not come later is the model's reading (notes/assumptions/39). That the quiet timer which a gate
crossing restarts counts from the cycle at which the crossing is taken is the model's reading (notes/assumptions/45).
That the write of a report that joins the held queue is a step of its own, which has not happened in the next state,
is the model's reading (notes/assumptions/8). That a crossing at a gate is taken before the change of its gate's
occupancy, and that the close conditions are evaluated with the gate already clear, is the model's reading
(notes/assumptions/25). That a report joins behind one whose number is exactly 2^31 away is the model's choice
(notes/assumptions/48). -/
def Obligations.CrossingsMoveTheCountsOfATrain : Prop :=
  ∀ (now since c : Cycle) (place : Option (Fin 4)) (r : TrainRecord) (axles : List AxleEntry) (det : Det)
      (dir : Dir) (s : State),
    let u := s.advance now
    let ds := u.detectorsWith det (u.detector det).left
    let forward : Prop := dir = r.dir
    let staged (r' : TrainRecord) : TrainRecord :=
      if r.staging.length < 8 then { r' with staging := none :: r.staging }
      else { r' with stagingOverflow := true }
    let backed (i : Nat) : List AxleEntry := axles.modify i (fun e => { e with state := .backed })
    let entryApproach : Det := match r.dir with | .east => .apW | .west => .apE
    let exitApproach : Det := match r.dir with | .east => .apE | .west => .apW
    let becomes (r' : TrainRecord) (axles' : List AxleEntry) : Prop :=
      ∃ t : State, exec (.elementEdge now det (lastElement dir) false since) s = .next t ∧
        u.TrainBecomes t ds place (u.timed det ds r') axles'
    s.Running → u.site.mode = .watch → (u.detector det).AboutToCross dir c → u.StoodFor since 2000 →
    u.OpenTrain place r axles →
    (det = entryApproach → forward → becomes { r with entryNet := r.entryNet + 1 } axles) ∧
    (det = entryApproach → ¬forward → becomes { r with entryNet := r.entryNet - 1 } axles) ∧
    (det = exitApproach → forward → becomes { r with exitNet := r.exitNet + 1 } axles) ∧
    (det = exitApproach → ¬forward → becomes { r with exitNet := r.exitNet - 1 } axles) ∧
    (det = entryGateOf r.dir → forward → r.staging.length < 8 →
      becomes { r with staging := r.staging ++ [some c] } axles) ∧
    (det = entryGateOf r.dir → forward → 8 ≤ r.staging.length →
      becomes { r with stagingOverflow := true } axles) ∧
    (det = entryGateOf r.dir → ¬forward → r.staging = [] →
      becomes { r with countDisagreement := true } axles) ∧
    (det = entryGateOf r.dir → ¬forward → r.staging ≠ [] →
      becomes { r with staging := r.staging.dropLast } axles) ∧
    (det = .g2 → r.substituted = true → becomes r axles) ∧
    (det = (if r.substituted then exitGateOf r.dir else .g2) → ¬forward →
      (0 < r.overflow → becomes (staged { r with
        overflow := r.overflow - 1, overflowExit := min r.overflowExit (r.overflow - 1)
        countDisagreement := r.countDisagreement || decide (r.overflow ≤ r.overflowExit) }) axles) ∧
      (r.overflow = 0 → 0 < r.f → r.substituted = true → becomes (staged { r with
        f := r.f - 1, x := r.x - 1 }) (backed (r.f - 1))) ∧
      (r.overflow = 0 → 0 < r.f → r.substituted = false → becomes (staged { r with
        f := r.f - 1, x := if r.f ≤ r.x then r.x - 1 else r.x
        countDisagreement := r.countDisagreement || decide (r.f ≤ r.x) }) (backed (r.f - 1))) ∧
      (r.overflow = 0 → r.f = 0 → becomes { r with underrun := true } axles)) ∧
    (det = exitGateOf r.dir → ¬forward → r.substituted = false →
      (0 < r.overflowExit → becomes { r with overflowExit := r.overflowExit - 1 } axles) ∧
      (r.overflowExit = 0 → 0 < r.x → becomes { r with x := r.x - 1 }
        (axles.modify (r.x - 1) (fun e =>
          { e with state := .entered, run := { e.run with t3 := none, broken := true } }))) ∧
      (r.overflowExit = 0 → r.x = 0 → becomes { r with phantom := true } axles))

/-- R35, R40, R41, R48, R49: a forward crossing of the exit gate of a train without *reference substituted*. It passes
the axle at x and stores T3; a clean run's request, with the copy of the run, goes to the SE: taken at once by an idle
SE with an empty queue, appended to a queue of fewer than 8, and otherwise the axle is SKIPPED and counted. A run that
is not clean, and an axle of a count-only train, makes no request. With no axle before the gate an overflow axle
passes, or *phantom* is set. Then the close conditions are evaluated. That an expiry of the quiet or the open-limit
timer which the crossing forgoes at its very instant does not come later is the model's reading
(notes/assumptions/39). That the quiet timer which the crossing restarts counts from the cycle at which it is taken is
the model's reading (notes/assumptions/45). That the extraction of a request that is taken at once, or the write of a
report that joins the held queue, is a step of its own, which has not happened in the next state, is the model's
reading (notes/assumptions/8). That the crossing is taken before the change of its gate's occupancy, and that the
close conditions are evaluated with the gate already clear, is the model's reading (notes/assumptions/25). That a
request carries its train's direction is the model's reading (notes/assumptions/26). That a report joins behind one
whose number is exactly 2^31 away is the model's choice (notes/assumptions/48). -/
def Obligations.ExitCrossingRequestsASettlement : Prop :=
  ∀ (now since c : Cycle) (place : Option (Fin 4)) (r : TrainRecord) (axles : List AxleEntry) (s : State),
    let u := s.advance now
    let det := exitGateOf r.dir
    let ds := u.detectorsWith det (u.detector det).left
    let passed (state : AxleState) : List AxleEntry := axles.modify r.x (fun e =>
      { e with state := state, run := { e.run with t3 := some c } })
    let gives (v : State) (r' : TrainRecord) (axles' : List AxleEntry) : Prop :=
      ∃ t : State, exec (.elementEdge now det (lastElement r.dir) false since) s = .next t ∧
        v.TrainBecomes t ds place (u.timed det ds r') axles'
    s.Running → u.site.mode = .watch → (u.detector det).AboutToCross r.dir c → u.StoodFor since 2000 →
    u.OpenTrain place r axles → r.substituted = false →
    (r.x < r.f → ∀ (b : Fin 4) (e : AxleEntry) (t2 : Cycle), place = some b → u.bufferOf r.number = some b →
      axles[r.x]? = some e → e.run.t2 = some t2 → e.run.broken = false →
      let q : Request := { train := r.number, axle := r.x, run := e.run.number, dir := r.dir
                           t1 := e.run.t1, t2 := t2, t3 := c, twoGate := e.run.twoGate }
      (u.se.inFlight = none ∧ u.se.queue = [] →
        ∃ f : Settlement, u.FixesInputs q (u.buffer b).consist f ∧
          gives { u with se := { u.se with inFlight := some f } } { r with x := r.x + 1 } (passed .settling)) ∧
      ((u.se.inFlight ≠ none ∨ u.se.queue ≠ []) ∧ u.se.queue.length < 8 →
        gives { u with se := { u.se with queue := u.se.queue ++ [q] } } { r with x := r.x + 1 }
          (passed .passed)) ∧
      (8 ≤ u.se.queue.length →
        gives u { r with x := r.x + 1, skipped := r.skipped + 1 } (passed .skipped))) ∧
    (r.x < r.f → (∀ e : AxleEntry, axles[r.x]? = some e → e.run.t2 = none ∨ e.run.broken = true) →
      gives u { r with x := r.x + 1 } (passed .passed)) ∧
    (r.f ≤ r.x → r.overflowExit < r.overflow →
      gives u { r with overflowExit := r.overflowExit + 1 } axles) ∧
    (r.f ≤ r.x → r.overflow ≤ r.overflowExit → gives u { r with phantom := true } axles)

/-- R7: with no train open, the stuck timer of an in-service detector that has run for more than the stuck limit
puts it into FAULTED:STUCK with an unknown entry side and SENSOR attention; up to the limit nothing
happens. -/
def Obligations.StuckDetectorFaults : Prop :=
  ∀ (now start : Cycle) (det : Det) (s : State),
    let u := s.advance now
    s.Running → u.trainOpen = false → (u.detector det).service = .inService →
    (u.detector det).stuckTimer = some start →
    (10000000 * u.site.settings.stuckLimit < (u.tbu.cycle - start).toNat →
      ∃ t : State, exec (.stuckTimerExpiry now det) s = .next t ∧
        t = { u with wdi := t.wdi, atu := { u.atu with pending := u.atu.pending ||| 0x40#8 } } ∧
        t.detector det =
          { u.detector det with service := .stuck, entrySide := none, stuckTimer := none } ∧
        ∀ d' : Det, d' ≠ det → t.detector d' = u.detector d') ∧
    ((u.tbu.cycle - start).toNat ≤ 10000000 * u.site.settings.stuckLimit →
      exec (.stuckTimerExpiry now det) s = .next u)

/-- R1, R13, R18, R28: a run of identical points that has lasted 100,000,000 cycles on an unfrozen in-service channel,
and a link silent for 1,000,000 cycles on an in-service scanner, put the channel into its fault, with SENSOR attention
and the open train's *sensor fault* mark, and nothing else; before that, on a channel that is not in service, and
while the strain channels are frozen, nothing happens. That a run counts as having lasted before the point which
completes at that very cycle is compared is the model's choice (notes/assumptions/43). -/
def Obligations.FlatChannelAndSilentLinkFault : Prop :=
  (∀ (now start : Cycle) (i : Fin 16) (s : State),
    let u := s.advance now
    let c := u.sau.channels.get i
    s.Running → u.tt.tracker = .idle → c.service = .inService → c.flatRun = some start →
    100000000 ≤ (u.tbu.cycle - start).toNat →
    ∃ t : State, exec (.flatRunExpiry now i) s = .next t ∧
      t = { u with sau := t.sau, tt := t.tt
                   atu := { u.atu with pending := u.atu.pending ||| 0x40#8 } } ∧
      t.sau.channels.get i = { c with service := .flat, flatRun := none } ∧
      (∀ j : Fin 16, j ≠ i → t.sau.channels.get j = u.sau.channels.get j) ∧
      t.sau.updatedAt = u.sau.updatedAt ∧ u.EntersFault t ∧
      t.openRecord = u.openRecord.map (fun r => { r with sensorFault := true })) ∧
  (∀ (now start : Cycle) (i : Fin 16) (s : State),
    let u := s.advance now
    let c := u.sau.channels.get i
    s.Running → c.flatRun = some start →
    u.tt.tracker ≠ .idle ∨ c.service ≠ .inService ∨ (u.tbu.cycle - start).toNat < 100000000 →
    exec (.flatRunExpiry now i) s = .next u) ∧
  (∀ (now : Cycle) (l : Fin 4) (s : State),
    let u := s.advance now
    let c := u.tsu.scanners.get l
    s.Running → c.service = .inService → 1000000 ≤ (u.tbu.cycle - c.linkTimer).toNat →
    ∃ t : State, exec (.linkTimerExpiry now l) s = .next t ∧
      t = { u with tsu := t.tsu, tt := t.tt
                   atu := { u.atu with pending := u.atu.pending ||| 0x40#8 } } ∧
      t.tsu.scanners.get l = { c with service := .link } ∧
      (∀ k : Fin 4, k ≠ l → t.tsu.scanners.get k = u.tsu.scanners.get k) ∧
      t.tsu.nextSlot = u.tsu.nextSlot ∧ t.tsu.updatedAt = u.tsu.updatedAt ∧ u.EntersFault t ∧
      t.openRecord = u.openRecord.map (fun r => { r with sensorFault := true })) ∧
  (∀ (now : Cycle) (l : Fin 4) (s : State),
    let u := s.advance now
    let c := u.tsu.scanners.get l
    s.Running → c.service ≠ .inService ∨ (u.tbu.cycle - c.linkTimer).toNat < 1000000 →
    exec (.linkTimerExpiry now l) s = .next u)

/-! ### Strain channels, scanners and the timebase -/

/-- R9, R10, R11, R13: the N raw samples of the next point make a point whose value is the rounded mean, with its clip
marker; it becomes the newest of at most 32,768 points, and the first point sets the baseline. On an unfrozen channel
in service the flat run goes on when the point's value equals the previous point's, and otherwise begins at the new
point's first cycle; on any other channel no run begins. That points are compared with the counter as unbounded
numbers, across its wrap too, is the model's choice (notes/assumptions/46). -/
def Obligations.PointIsTheRoundedMean : Prop :=
  ∀ (now : Cycle) (i : Fin 16) (samples : List Sample) (s : State),
    let u := s.advance now
    let c := u.sau.channels.get i
    let n := u.site.settings.averaging
    s.Running → 0 < n → samples.length = n → (c.next + 1) * (500 * n) ≤ u.tbu.cycle.toNat →
    ∃ (t : State) (p : Point), exec (.pointComplete now i samples) s = .next t ∧
      t = { u with sau := { u.sau with channels := t.sau.channels } } ∧
      (∀ j : Fin 16, j ≠ i → t.sau.channels.get j = u.sau.channels.get j) ∧
      (let c' := t.sau.channels.get i
       c'.history = (p :: c.history).take 32768 ∧ c'.next = c.next + 1 ∧ c'.service = c.service ∧
       (∀ b, c.baseline = some b → c'.baseline = some b) ∧
       (c.baseline = none → c'.baseline = some (256 * p.value)) ∧
       (c.service = .inService → u.tt.tracker = .idle →
         (∀ (start : Cycle) (q : Point) (older : List Point), c.flatRun = some start → c.history = q :: older →
           q.value = p.value → c'.flatRun = some start) ∧
         (c.flatRun = none ∨ c.history = [] ∨ (∃ q ∈ c.history.head?, q.value ≠ p.value) →
           c'.flatRun = some (BitVec.ofNat 64 (c.next * (500 * n))))) ∧
       (c.service ≠ .inService ∨ u.tt.tracker ≠ .idle → c.flatRun = none → c'.flatRun = none)) ∧
      (n : Int) * p.value ≤ (samples.map (·.toInt)).sum + ((n / 2 : Nat) : Int) ∧
      (samples.map (·.toInt)).sum + ((n / 2 : Nat) : Int) < (n : Int) * (p.value + 1) ∧
      (p.clip = true ↔ ∃ x ∈ samples, x.toInt = 32767 ∨ x.toInt = -32768)

/-- R1, R11 to R13, R28: at a multiple of 100,000 cycles with the channels unfrozen, every channel whose newest point
completes there moves its baseline by a 256th of the distance, truncated toward zero, and enters FAULTED:DRIFT, which
ends its flat run, when it is in service and its integer baseline is beyond the drift limit of its name; every other
channel stays as it is. SENSOR is raised, and the open train marked, exactly when a fault is entered. While the
channels are frozen, at another instant, and a second time at one instant, nothing changes. That a channel whose newest
point does not complete at the instant stays as it is at the update, its point having to be written first, is the
model's reading (notes/assumptions/17). That one command updates every channel, that a point's end is compared with the
counter as an unbounded number, and the mark of the last update are the model's own (notes/assumptions/14, 16, 46). -/
def Obligations.BaselineMovesTowardThePoint : Prop :=
  ∀ (now : Cycle) (s : State), s.Running →
    let u := s.advance now
    let completes (i : Fin 16) (b : Int) (p : Point) : Prop :=
      let c := u.sau.channels.get i
      c.baseline = some b ∧ c.history.head? = some p ∧
        c.next * (500 * u.site.settings.averaging) = u.tbu.cycle.toNat
    let moved (b : Int) (p : Point) : Int := b + (256 * p.value - b).tdiv 256
    let drifted (i : Fin 16) (b : Int) (p : Point) : Prop :=
      let name := strainInput u.site.settings.railSwap i
      completes i b p ∧ (u.sau.channels.get i).service = .inService ∧
        u.site.settings.driftLimits.get name <
          (moved b p / 256 - u.site.settings.zeroRefs.get name).natAbs
    (u.tt.tracker = .idle → u.tbu.cycle.toNat % 100000 = 0 → u.sau.updatedAt ≠ some u.tbu.cycle →
      ∃ t : State, exec (.baselineUpdate now) s = .next t ∧
        t = { u with sau := { channels := t.sau.channels, updatedAt := some u.tbu.cycle }
                     tt := t.tt, atu := t.atu } ∧
        (∀ (i : Fin 16) (b : Int) (p : Point), completes i b p →
          (drifted i b p → t.sau.channels.get i = { u.sau.channels.get i with
            baseline := some (moved b p), service := .drift, flatRun := none }) ∧
          (¬drifted i b p → t.sau.channels.get i = { u.sau.channels.get i with
            baseline := some (moved b p) })) ∧
        (∀ i : Fin 16, (∀ (b : Int) (p : Point), ¬completes i b p) →
          t.sau.channels.get i = u.sau.channels.get i) ∧
        ((∃ (i : Fin 16) (b : Int) (p : Point), drifted i b p) → u.EntersFault t) ∧
        ((∀ (i : Fin 16) (b : Int) (p : Point), ¬drifted i b p) → t.tt = u.tt ∧ t.atu = u.atu)) ∧
    (u.tt.tracker ≠ .idle ∨ u.tbu.cycle.toNat % 100000 ≠ 0 ∨ u.sau.updatedAt = some u.tbu.cycle →
      exec (.baselineUpdate now) s = .next u)

/-- R16 to R18: a frame that passes its check is stored in the slot of its cycle in place of an earlier sample, is
the latest sample, sets an absent ambient and restarts the link timer; a frame whose check fails changes nothing. The
form of the check, and the mark of a sample since the last ambient instant, are the model's own (notes/assumptions/4,
18). -/
def Obligations.FrameIsStoredInItsSlot : Prop :=
  ∀ (now : Cycle) (l : Fin 4) (x : Sample) (check : Byte) (s : State), s.Running →
    let u := s.advance now
    let c := u.tsu.scanners.get l
    let k := u.tbu.cycle.toNat / 10000
    (check = Config.scannerCheck x →
      ∃ t : State, exec (.scannerFrame now l x check) s = .next t ∧
        t = { u with tsu := { u.tsu with scanners := t.tsu.scanners } } ∧
        (∀ j : Fin 4, j ≠ l → t.tsu.scanners.get j = u.tsu.scanners.get j) ∧
        (let c' := t.tsu.scanners.get l
         c'.latest = some x ∧ c'.fresh = true ∧ c'.linkTimer = u.tbu.cycle ∧
         c'.arrivals.lookup k = some x ∧ (∀ m, m ≠ k → c'.arrivals.lookup m = c.arrivals.lookup m) ∧
         c'.history = c.history ∧ c'.service = c.service ∧
         c'.ambient = some (c.ambient.getD (64 * x.toInt)))) ∧
    (check ≠ Config.scannerCheck x → exec (.scannerFrame now l x check) s = .next u)

/-- R16: when the cycle counter has passed the end of the open slot, the slot enters every scanner's history of at
most 8,192 slots, holding its sample or a gap, and samples that have arrived in later slots stay; before that nothing
changes. That slots are compared with the counter as unbounded numbers, so that none completes after its wrap until a
full reset, is the model's choice (notes/assumptions/46). -/
def Obligations.SlotEntersTheHistory : Prop :=
  ∀ (now : Cycle) (s : State), s.Running →
    let u := s.advance now
    let k := u.tsu.nextSlot
    ((k + 1) * 10000 ≤ u.tbu.cycle.toNat →
      ∃ t : State, exec (.slotComplete now) s = .next t ∧ t = { u with tsu := t.tsu } ∧
        t.tsu.nextSlot = k + 1 ∧ t.tsu.updatedAt = u.tsu.updatedAt ∧
        ∀ l : Fin 4,
          let c := u.tsu.scanners.get l
          let c' := t.tsu.scanners.get l
          c'.history = (c.arrivals.lookup k :: c.history).take 8192 ∧
          c'.arrivals.lookup k = none ∧ (∀ m, m ≠ k → c'.arrivals.lookup m = c.arrivals.lookup m) ∧
          c' = { c with history := c'.history, arrivals := c'.arrivals }) ∧
    (u.tbu.cycle.toNat < (k + 1) * 10000 → exec (.slotComplete now) s = .next u)

/-- R1, R17, R18, R28: at a multiple of 1,000,000 cycles, every scanner that has an ambient and a sample since the
last instant moves its ambient by a 64th of the distance, truncated toward zero, when the scanners are unfrozen, and
enters FAULTED:AMBIENT when it is in service and its integer ambient lies outside -500 to +600; any other scanner
keeps its ambient. SENSOR is raised, and the open train marked, exactly when a fault is entered. At another instant,
and a second time at one instant, nothing changes. The mark of the last update is the model's own
(notes/assumptions/14), and so is the form of the mark of a sample since it, which every instant clears
(notes/assumptions/18). -/
def Obligations.AmbientMovesTowardTheSample : Prop :=
  ∀ (now : Cycle) (s : State), s.Running →
    let u := s.advance now
    let updates (l : Fin 4) (a : Int) (x : Sample) : Prop :=
      let c := u.tsu.scanners.get l
      u.tt.tracker = .idle ∧ c.fresh = true ∧ c.ambient = some a ∧ c.latest = some x
    let moved (a : Int) (x : Sample) : Int := a + (64 * x.toInt - a).tdiv 64
    let outside (l : Fin 4) (a : Int) (x : Sample) : Prop :=
      updates l a x ∧ (u.tsu.scanners.get l).service = .inService ∧
        (moved a x / 64 < -500 ∨ 600 < moved a x / 64)
    (u.tbu.cycle.toNat % 1000000 = 0 → u.tsu.updatedAt ≠ some u.tbu.cycle →
      ∃ t : State, exec (.ambientUpdate now) s = .next t ∧
        t = { u with tsu := { u.tsu with scanners := t.tsu.scanners, updatedAt := some u.tbu.cycle }
                     tt := t.tt, atu := t.atu } ∧
        (∀ (l : Fin 4) (a : Int) (x : Sample), updates l a x →
          (outside l a x → t.tsu.scanners.get l = { u.tsu.scanners.get l with
            ambient := some (moved a x), fresh := false, service := .ambient }) ∧
          (¬outside l a x → t.tsu.scanners.get l = { u.tsu.scanners.get l with
            ambient := some (moved a x), fresh := false })) ∧
        (∀ l : Fin 4, (∀ (a : Int) (x : Sample), ¬updates l a x) →
          t.tsu.scanners.get l = { u.tsu.scanners.get l with fresh := false }) ∧
        ((∃ (l : Fin 4) (a : Int) (x : Sample), outside l a x) → u.EntersFault t) ∧
        ((∀ (l : Fin 4) (a : Int) (x : Sample), ¬outside l a x) → t.tt = u.tt ∧ t.atu = u.atu)) ∧
    (u.tbu.cycle.toNat % 1000000 ≠ 0 ∨ u.tsu.updatedAt = some u.tbu.cycle →
      exec (.ambientUpdate now) s = .next u)

/-- R21: the first pulse after a full reset records its time; a later pulse 9,800,000 to 10,200,000 cycles after
the one before it sets F to those cycles and the trim state to TRIMMED; any other pulse leaves both; and
every pulse becomes the previous pulse, which a site reset keeps and a full reset clears. -/
def Obligations.SecondPulseMeasuresTheRate : Prop :=
  ∀ (now : Cycle) (s : State), s.Running →
    let u := s.advance now
    (∃ t : State, exec (.secondPulse now) s = .next t ∧ t = { u with tbu := t.tbu } ∧
      t.tbu.prevPulse = some u.tbu.cycle ∧ t.tbu.cycle = u.tbu.cycle ∧
      t.tbu.siteTime = u.tbu.siteTime ∧ t.tbu.accumulator = u.tbu.accumulator ∧
      t.tbu.rateInForce = u.tbu.rateInForce ∧
      (u.tbu.prevPulse = none → t.tbu.rate = u.tbu.rate ∧ t.tbu.trim = u.tbu.trim) ∧
      ∀ p, u.tbu.prevPulse = some p →
        (9800000 ≤ (u.tbu.cycle - p).toNat ∧ (u.tbu.cycle - p).toNat ≤ 10200000 →
          t.tbu.rate = (u.tbu.cycle - p).toNat ∧ t.tbu.trim = .trimmed ∧
          t.tbu.lastAccepted = some u.tbu.cycle) ∧
        ((u.tbu.cycle - p).toNat < 9800000 ∨ 10200000 < (u.tbu.cycle - p).toNat →
          t.tbu.rate = u.tbu.rate ∧ t.tbu.trim = u.tbu.trim ∧
          t.tbu.lastAccepted = u.tbu.lastAccepted)) ∧
    (∃ t : State, exec (.siteReset now) s = .next t ∧ t.tbu.prevPulse = u.tbu.prevPulse) ∧
    (∃ t : State, exec (.fullReset now) s = .next t ∧ t.tbu.prevPulse = none)

/-- R20, R22, R28: when 30,000,000 cycles have passed since the last accepted pulse while TRIMMED, the trim state
becomes LOST with SENSOR attention, F keeps its value, and an open train is marked *untrimmed*, with nothing else of
it changed; in any other trim state, NONE among them, whether a pulse was ever accepted or not, or earlier, nothing
happens. -/
def Obligations.TrimIsLostAfterThreeSeconds : Prop :=
  ∀ (now : Cycle) (s : State), s.Running →
    let u := s.advance now
    (∀ last : Cycle, u.tbu.lastAccepted = some last →
      (u.tbu.trim = .trimmed ∧ 30000000 ≤ (u.tbu.cycle - last).toNat →
        ∃ t : State, exec (.trimLost now) s = .next t ∧
          t = { u with tbu := { u.tbu with trim := .lost }, tt := t.tt
                       atu := { u.atu with pending := u.atu.pending ||| 0x40#8 } } ∧
          t.tt.tracker = u.tt.tracker ∧ u.OpenTrainMarked t (fun r => { r with untrimmed := true }) ∧
          t.openRecord = u.openRecord.map (fun r => { r with untrimmed := true })) ∧
      (u.tbu.trim ≠ .trimmed ∨ (u.tbu.cycle - last).toNat < 30000000 →
        exec (.trimLost now) s = .next u)) ∧
    (u.tbu.trim ≠ .trimmed → exec (.trimLost now) s = .next u)

/-- R23: when the accumulator has reached the F in force, F is subtracted from it and site time increases by 1; before
that nothing happens. That the F in force is held apart from F, and that ticks taken late use it, is the model's
choice (notes/assumptions/14, 32). -/
def Obligations.MillisecondAdvancesSiteTime : Prop :=
  ∀ (now : Cycle) (s : State), s.Running →
    let u := s.advance now
    (u.tbu.rateInForce ≤ u.tbu.accumulator →
      ∃ t : State, exec (.millisecondTick now) s = .next t ∧
        t = { u with tbu := { u.tbu with siteTime := u.tbu.siteTime + 1
                                         accumulator := t.tbu.accumulator } } ∧
        t.tbu.accumulator + u.tbu.rateInForce = u.tbu.accumulator) ∧
    (u.tbu.accumulator < u.tbu.rateInForce → exec (.millisecondTick now) s = .next u)

/-! ### Closing a train -/

/-- R5, R7, R13, R24, R25: a crossing at an approach sensor toward the zone takes an IDLE tracker in WATCH to APPROACH
with its count at 1 and the approach timer started, which ends every flat run and starts the stuck timers, and a
crossing away from the zone is dropped; in APPROACH a crossing toward the zone adds 1 to its sensor's count and one
away subtracts 1, and either restarts the timer. When the approach timer has run for the approach timeout, the tracker
returns to IDLE, which starts the stuck timers, and the counts are gone: no train number is used, nothing is written
and no attention is raised; before that nothing happens. That a timer which a crossing starts counts from the cycle at
which the crossing is taken is the model's reading (notes/assumptions/45). That a stuck timer starts only on a
detector in service is the model's reading (notes/assumptions/19). -/
def Obligations.ApproachTimesOutWithoutATrace : Prop :=
  (∀ (now : Cycle) (a : Approach) (s : State),
    let u := s.advance now
    s.Running → u.tt.tracker = .approach a →
    (10000000 * u.site.settings.approachTimeout ≤ (u.tbu.cycle - a.timer).toNat →
      exec (.approachTimeout now) s = .next
        { u.withDetectors (fun d => (u.detector d).supervised u.tbu.cycle) with
          tt := { u.tt with tracker := .idle } }) ∧
    ((u.tbu.cycle - a.timer).toNat < 10000000 * u.site.settings.approachTimeout →
      exec (.approachTimeout now) s = .next u)) ∧
  (∀ (now since c : Cycle) (det : Det) (dir : Dir) (s : State),
    let u := s.advance now
    let ds := u.detectorsWith det (u.detector det).left
    let toward : Prop := det = .apW ∧ dir = .east ∨ det = .apE ∧ dir = .west
    let step : Int := match det, dir with | .apW, .east => 1 | .apE, .west => 1 | _, _ => -1
    let counts (w e change : Int) : Approach :=
      { countW := if det = .apW then w + change else w, countE := if det = .apE then e + change else e
        timer := u.tbu.cycle }
    s.Running → u.site.mode = .watch → det = .apW ∨ det = .apE →
    (u.detector det).AboutToCross dir c → u.StoodFor since 2000 →
    (u.tt.tracker = .idle → toward →
      exec (.elementEdge now det (lastElement dir) false since) s = .next
        { u.withDetectors (fun d => (ds d).supervised u.tbu.cycle) with
          sau := { u.sau with channels := u.sau.channels.map (fun c => { c with flatRun := none }) }
          tt := { u.tt with tracker := .approach (counts 0 0 1) } }) ∧
    (u.tt.tracker = .idle → ¬toward →
      exec (.elementEdge now det (lastElement dir) false since) s = .next (u.withDetectors ds)) ∧
    (∀ a : Approach, u.tt.tracker = .approach a →
      exec (.elementEdge now det (lastElement dir) false since) s = .next
        { u.withDetectors ds with
          tt := { u.tt with tracker := .approach (counts a.countW a.countE step) } }))

/-- R40 to R45, R154: the quiet timer closes the open train TIMED_OUT and the open-limit timer closes it ABANDONED:
the close time is site time, the timers and the staging deque are gone, the tracker is IDLE, TRAIN is pending, and the
buffer is CLOSING while the SE holds a request of the train and HELD otherwise. A count-only train leaves its stub in
the held queue, or counted as lost beside 8 stubs, and the site header shows the journal's counts as they then stand.
A gate that becomes occupied suspends a running quiet timer with its remaining time, and the last gate that becomes
free without a crossing resumes it; at either the close conditions are evaluated. That the write of a report that
joins the held queue is a step of its own, which has not happened in the next state, is the model's reading
(notes/assumptions/8). That the quiet timer is suspended and resumed at the cycle at which the edge is accepted is the
model's reading (notes/assumptions/45). That a report joins behind one whose number is exactly 2^31 away is the
model's choice (notes/assumptions/48). -/
def Obligations.TimersCloseTheOpenTrain : Prop :=
  (∀ (now : Cycle) (c : Instr) (status : CloseStatus) (r : TrainRecord) (s : State),
    let u := s.advance now
    let closed : TrainRecord := { r with closeTime := some u.tbu.siteTime, status := some status
                                         staging := [], quiet := .stopped, openLimit := none }
    s.Running → u.openRecord = some r →
    (c = .quietTimeout now ∧ status = .timedOut ∧
        (∃ since left, r.quiet = .running since left ∧ left ≤ (u.tbu.cycle - since).toNat) ∨
      c = .openLimitExpiry now ∧ status = .abandoned ∧
        (∃ start, r.openLimit = some start ∧
          10000000 * u.site.settings.openLimit ≤ (u.tbu.cycle - start).toNat)) →
    ∃ t : State, exec c s = .next t ∧ t.tt.tracker = .idle ∧ t.atu.pending &&& 0x20#8 = 0x20#8 ∧
      t.tt.trainNumber = u.tt.trainNumber ∧ t.site = u.site ∧ t.tbu = u.tbu ∧ t.se = u.se ∧
      t.ou = u.ou ∧ t.next = u.next ∧ t.tsu = u.tsu ∧ t.lvu = u.lvu ∧
      (∀ b : Fin 4, u.bufferIn .opened = some b →
        (∀ a : Fin 4, a ≠ b → (u.buffer a).record.number = r.number →
          (u.buffer a).state ≠ .opened ∧ (u.buffer a).state ≠ .closing) →
        (t.buffer b).record = closed ∧
        ((t.buffer b).state = if u.se.holds r.number then .closing else .held) ∧
        (∀ a : Fin 4, a ≠ b → t.buffer a = u.buffer a)) ∧
      (u.bufferIn .opened = none →
        t.tt.countOnly = none ∧ t.tt.buffers = u.tt.buffers ∧
        (u.rpw.stubs < 8 → t.rpw.lost = u.rpw.lost ∧
          ∃ h ∈ t.rpw.held, h.buffer = none ∧ h.header.number = r.number ∧
            h.header.status = status ∧ t.rpw.held.length = u.rpw.held.length + 1) ∧
        (8 ≤ u.rpw.stubs → t.rpw.held = u.rpw.held ∧ t.rpw.lost = min 65535 (u.rpw.lost + 1)) ∧
        (u.tt.countOnly ≠ none → t.mem.Shows 8 6 t.rpw.siteItems)) ∧
      (∀ (place : Option (Fin 4)) (axles : List AxleEntry), u.OpenTrain place r axles →
        u.ClosesAs t u.detector place r axles status)) ∧
  (∀ (now since : Cycle) (det : Det) (e : Element) (place : Option (Fin 4)) (r : TrainRecord)
      (axles : List AxleEntry) (s : State),
    let u := s.advance now
    let d := u.detector det
    s.Running → det ≠ .apW → det ≠ .apE → d.service = .inService → u.StoodFor since 2000 →
    u.OpenTrain place r axles →
    (d.decoder = .clear → ∃ t : State, exec (.elementEdge now det e true since) s = .next t ∧
      u.TrainBecomes t
        (u.detectorsWith det { d with
          decoder := match e with | .e1 => .oneW | .e2 => .oneE
          entrySide := some (match e with | .e1 => .west | .e2 => .east), candidate := none })
        place
        { r with quiet := match r.quiet with
          | .running start left => .suspended (left - (u.tbu.cycle - start).toNat)
          | q => q }
        axles) ∧
    (d.decoder = .oneW ∧ e = .e1 ∧ d.entrySide ≠ some .east ∨
        d.decoder = .oneE ∧ e = .e2 ∧ d.entrySide ≠ some .west →
      ∃ t : State, exec (.elementEdge now det e false since) s = .next t ∧
        u.TrainBecomes t (u.detectorsWith det d.left) place
          { r with quiet := match r.quiet with
            | .suspended left =>
              if GatesFree (u.detectorsWith det d.left) then .running u.tbu.cycle left else .suspended left
            | .running start left =>
              if GatesFree (u.detectorsWith det d.left) then .running start left
              else .suspended (left - (u.tbu.cycle - start).toNat)
            | q => q }
          axles))

/-! ### Settlement -/

/-- R49, R55 to R59, R72, R73, R92: an idle SE takes the oldest request: a PASSED entry still on the run becomes
SETTLING, with nothing else of its train's buffer changed, and F, the working configuration, the service states, the
limit of the covering vehicle, the speeds of the segments and the window of every crib and scanner are fixed. That the
extraction is a step of its own, which has not happened in the next state, is the model's reading
(notes/assumptions/8). That a request carries its train's direction is the model's reading (notes/assumptions/26).
That the service states are those of the physical inputs under the rail swap of the take is the model's reading
(notes/assumptions/20). -/
def Obligations.SettlementFixesItsInputs : Prop :=
  ∀ (now : Cycle) (q : Request) (rest : List Request) (b : Fin 4) (e : AxleEntry) (s : State),
    let u := s.advance now
    s.Running → u.se.inFlight = none → u.se.queue = q :: rest → u.bufferOf q.train = some b →
    (u.buffer b).axles[q.axle]? = some e →
    ∃ (t : State) (f : Settlement), exec (.settlementTake now) s = .next t ∧
      t = { u with se := { u.se with queue := rest, inFlight := some f }
                   tt := { u.tt with buffers := t.tt.buffers } } ∧
      f.request = q ∧ f.rate = u.tbu.rate ∧ f.settings = u.site.settings ∧ f.extracted = none ∧
      (∀ n : Fin 16, f.strainInService.get n = true ↔ (u.strain n).service = .inService) ∧
      (∀ n : Fin 4, f.scannerInService.get n = true ↔ (u.scanner n).service = .inService) ∧
      (∀ v : Vehicle, (u.buffer b).consist.bind (fun vs => covering vs q.axle) = some v →
        f.limit = (if v.limit = 0 then u.site.settings.defaultAxleLimit else v.limit) ∧
        f.source = .consist) ∧
      ((u.buffer b).consist.bind (fun vs => covering vs q.axle) = none →
        f.limit = u.site.settings.defaultAxleLimit ∧ f.source = .default) ∧
      u.FixesInputs q (u.buffer b).consist f ∧
      (∀ a : Fin 4, a ≠ b → t.buffer a = u.buffer a) ∧
      t.buffer b = { u.buffer b with
        axles := (u.buffer b).axles.set q.axle
          (if e.run.number = q.run ∧ e.state = .passed then { e with state := .settling } else e) }

/-- R11, R50, R59, R74: extraction comes when the last point of every crib window and the last slot of every scanner
window are complete; every window is read at that instant with the baselines and the ambients, a crib is invalid on
the grounds of R59 alone, and each channel's last-end mark becomes the greater of itself and its window's last point.
Before that the settlement waits. That histories, baselines, ambients and last-end marks belong to the physical
inputs, looked up through the rail swap fixed at the take, is the model's reading (notes/assumptions/20). -/
def Obligations.ExtractionWaitsForEveryWindow : Prop :=
  ∀ (now : Cycle) (f : Settlement) (s : State),
    let u := s.advance now
    let channel (n : Fin 16) := strainInput f.settings.railSwap n
    let complete : Prop :=
      (∀ (n : Fin 16) (w : Window), f.cribWindows[n.val]? = some w →
        w.hi < ((u.sau.channels.get (channel n)).next : Int)) ∧
      (∀ w ∈ f.scanWindows, w.hi < (u.tsu.nextSlot : Int))
    s.Running → u.se.inFlight = some f → f.extracted = none → f.cribWindows.length ≤ 16 →
    (complete → ∃ (t : State) (x : Extracted), exec (.extraction now) s = .next t ∧
      t = { u with se := { u.se with inFlight := some { f with extracted := some x }
                                     lastEnd := t.se.lastEnd } } ∧
      x.instant = u.tbu.cycle ∧ x.cribs.length = f.cribWindows.length ∧
      x.scans.length = f.scanWindows.length ∧
      (∀ (n : Fin 16) (w : Window), f.cribWindows[n.val]? = some w → ∃ r : CribRead,
        x.cribs[n.val]? = some r ∧ r.Of (u.sau.channels.get (channel n)) (f.strainInService.get n)
          (u.se.lastEnd.get (channel n)) w) ∧
      (∀ (n : Fin 4) (w : Window), f.scanWindows[n.val]? = some w → ∃ r : ScanRead,
        x.scans[n.val]? = some r ∧
          r.Of (u.tsu.scanners.get (scannerLink f.settings.railSwap n)) u.tsu.nextSlot w) ∧
      (∀ (n : Fin 16) (w : Window), f.cribWindows[n.val]? = some w →
        t.se.lastEnd.get (channel n) = some (match u.se.lastEnd.get (channel n) with
          | some m => max m w.hi
          | none => w.hi)) ∧
      (∀ n : Fin 16, f.cribWindows[n.val]? = none →
        t.se.lastEnd.get (channel n) = u.se.lastEnd.get (channel n))) ∧
    (¬complete → exec (.extraction now) s = .next u)

/-- R51, R56, R60 to R71, R75 to R80: at completion the run's speed, loads, rises and alarms are computed from what
the take fixed and extraction read. The entry takes the speed, the load result unless a valid one is stored, the
temperature results with the run's number, and SETTLED when it is still on the run and SETTLING or PASSED; the alarms
are raised in order, each setting its kind's bit of the entry; no settlement is in flight, and the speed is the live
view's last speed. That *out of range* is clear on a run without a valid speed is the model's reading
(notes/assumptions/24). That the take of the next request, or the close computations of a train whose last request
this was, is a step of its own, which has not happened in the next state, is the model's reading
(notes/assumptions/8). That a new deadline is site time plus the hold window modulo 2^64 is the model's reading
(notes/assumptions/22). -/
def Obligations.SettlementWritesItsResults : Prop :=
  ∀ (now : Cycle) (f : Settlement) (x : Extracted) (b : Fin 4) (e : AxleEntry) (s : State),
    let u := s.advance now
    let q := f.request
    s.Running → u.se.inFlight = some f → f.extracted = some x → u.bufferOf q.train = some b →
    (u.buffer b).axles[q.axle]? = some e →
    ∃ (result : SettleResult) (t : State) (e' : AxleEntry), f.Computes x result ∧
      exec (.settlementComplete now) s = .next t ∧
      t = { u with se := { u.se with inFlight := none }, lvu := { u.lvu with lastSpeed := result.speed }
                   tt := { u.tt with buffers := t.tt.buffers }
                   ab := t.ab, sli := t.sli, mem := t.mem, atu := t.atu } ∧
      (∀ a : Fin 4, a ≠ b → t.buffer a = u.buffer a) ∧
      (t.buffer b).record = (u.buffer b).record ∧ (t.buffer b).state = (u.buffer b).state ∧
      (t.buffer b).axles.length = (u.buffer b).axles.length ∧
      (∀ i : Nat, i ≠ q.axle → (t.buffer b).axles[i]? = (u.buffer b).axles[i]?) ∧
      (t.buffer b).axles[q.axle]? = some e' ∧
      e'.run = e.run ∧ e'.revisits = e.revisits ∧ e'.speed = result.speed ∧
      (∀ l, e.load = some l → l.axleLoad.isSome = true → l.outOfRange = false → e'.load = some l) ∧
      (e.load = none → e'.load = some result.load) ∧
      (∀ l, e.load = some l → (l.axleLoad = none ∨ l.outOfRange = true) →
        e'.load = some result.load) ∧
      (∃ temps, e'.temps = some temps ∧ temps.recordRun = q.run ∧
        ∀ i : Fin 4,
          (∀ v : Nat, result.rises.get i = .valid v → temps.slots.get i = .valid v q.run) ∧
          ∀ k : RiseReason, result.rises.get i = .invalid k →
            (∀ old : TempResults, e.temps = some old → ∀ v n : Nat, old.slots.get i = .valid v n →
              temps.slots.get i = .valid v n) ∧
            ((∀ old : TempResults, e.temps = some old → ∀ v n : Nat, old.slots.get i ≠ .valid v n) →
              temps.slots.get i = .invalid k q.run)) ∧
      (e.run.number = q.run ∧ (e.state = .settling ∨ e.state = .passed) → e'.state = .settled) ∧
      (¬(e.run.number = q.run ∧ (e.state = .settling ∨ e.state = .passed)) → e'.state = e.state) ∧
      e' = { e with state := e'.state, speed := e'.speed, load := e'.load, temps := e'.temps
                    alarmBits := result.alarms.foldl (fun bits a => bits ||| a.kind.bit) e.alarmBits } ∧
      let v := u.withBuffer b { u.buffer b with
        axles := (u.buffer b).axles.set q.axle { e' with alarmBits := e.alarmBits } }
      let w := result.alarms.foldl State.raiseForAxle v
      t.ab = w.ab ∧ t.sli = w.sli ∧ t.mem = w.mem ∧ t.atu = w.atu ∧ t.buffer b = w.buffer b

/-- R44, R83, R93 to R97, R102, R138, R140, R142, R154: when the SE holds no request of a CLOSING buffer's train, its
close computations are done: the entries are grouped into bogies, the BEARING_DIFF alarms are raised in order, the
vehicles of a consist are mapped and the *consist-late* marks set, every alarm entry has its board outcome, the buffer
is HELD, its report, with its header and sizes, has joined the held queue by train number, and the site header shows
the journal with its counts as they then stand; while a request remains, the buffer waits. That the write of the
report, or the completion of a WAITING order, is a step of its own, which has not happened in the next state, is the
model's reading (notes/assumptions/8). That a report joins behind one whose number is exactly 2^31 away is the model's
choice (notes/assumptions/48). -/
def Obligations.CloseComputationsHoldTheBuffer : Prop :=
  ∀ (now : Cycle) (b : Fin 4) (s : State),
    let u := s.advance now
    let x := u.buffer b
    let r := x.record
    s.Running → x.state = .closing →
    (∀ a : Fin 4, a ≠ b → (u.buffer a).record.number = r.number →
      (u.buffer a).state ≠ .opened ∧ (u.buffer a).state ≠ .closing) →
    (u.se.holds r.number = true → exec (.closeComputations now b) s = .next u) ∧
    (u.se.holds r.number = false →
      ∃ t : State, exec (.closeComputations now b) s = .next t ∧
        t = { u with tt := { u.tt with buffers := t.tt.buffers }
                     rpw := { u.rpw with held := t.rpw.held }
                     ab := t.ab, sli := t.sli, mem := t.mem, atu := t.atu } ∧
        (∀ a : Fin 4, a ≠ b → t.buffer a = u.buffer a) ∧
        (t.buffer b).state = .held ∧ (t.buffer b).record = r ∧
        (t.buffer b).consist = x.consist ∧
        (t.buffer b).axles.length = x.axles.length ∧
        (∀ e ∈ (t.buffer b).alarms, e.outcome.isSome = true) ∧
        t.rpw.held.length = u.rpw.held.length + 1 ∧
        (∃ h ∈ t.rpw.held, h.buffer = some b ∧ h.header.number = r.number ∧
          h.header.netAxles = r.f + r.overflow) ∧
        t.mem.readWord 0 = t.rpw.lastWritten ∧ t.mem.Shows 8 6 t.rpw.siteItems ∧
        (∀ a : Nat, (4 ≤ a ∧ a < 8) ∨ (0x20 ≤ a ∧ a < 0x28) ∨ (0x30 ≤ a ∧ a < 0x2200) ∨ 0x2A00 ≤ a →
          t.mem.readByte a = u.mem.readByte a) ∧
        ∃ (bogies : List Nat) (w : State) (h : HeldReport),
          let y := t.buffer b
          let grouped := List.zipWith (fun e k => { e with bogie := k }) x.axles bogies
          BogiesOf u.tbu.rate u.site.settings.bogieMax x.axles bogies ∧
          w = (diffAlarmsOf u.site.settings.diffWarn r.number grouped).foldl State.raiseForAxle
            (u.withBuffer b { x with axles := grouped }) ∧
          t.ab = w.ab ∧ t.sli = w.sli ∧ t.atu = w.atu ∧ w.mem.SameOutside t.mem 0 0x20 ∧
          y = { w.buffer b with state := .held, axles := y.axles, alarms := y.alarms, vehicles := y.vehicles
                                mismatch := y.mismatch } ∧
          y.Mapped (w.buffer b).axles r.entries ∧
          y.alarms.length = (w.buffer b).alarms.length ∧
          (u.KeysDistinct → ∀ (k : Nat) (e : AlarmEntry), (w.buffer b).alarms[k]? = some e →
            ∃ o : BoardOutcome, y.alarms[k]? = some { e with outcome := some o } ∧ t.ab.Outcome r.number e o) ∧
          t.rpw.held = placedByNumber h u.rpw.held ∧ h.buffer = some b ∧
          (r.status ≠ none → r.closeTime ≠ none → h.header.OfTrain r y.axles y.alarms) ∧
          h.header.unlisted = y.unlistedEntries ∧ h.header.boardFull = y.boardFull ∧
          h.header.mismatch = y.mismatch ∧ h.header.consistPresent = y.consist.isSome ∧
          h.header.vehicleCount = (y.consist.getD []).length ∧
          h.fullSize = 2 + (y.consist.getD []).length + y.axles.length + (y.alarms.length + 1) / 2 ∧
          h.summarySize = 2 + (y.consist.getD []).length + y.axles.countP (fun e => e.alarmBits ≠ 0) +
            (y.alarms.length + 1) / 2)

/-! ### The alarm board and the stop line -/

/-- R105, R111, R117 to R119, R124, R125, R127, R135: when site time has reached the deadline of a PENDING record, the
record becomes COMMITTED with no deadline, its version goes on, ALARM is pending, the stop demand is active and handed
on, and in LEVEL mode an active demand that was inactive asserts STOP_OUT, and the site header shows the stop line as
it then stands; before the deadline nothing happens. That a deadline is compared with site time as an unsigned number
is the model's reading (notes/assumptions/22). -/
def Obligations.ExpiryCommitsTheRecord : Prop :=
  ∀ (now : Cycle) (p : Fin 32) (r : AlarmRecord) (d : SiteTime) (s : State),
    let u := s.advance now
    s.Running → u.ab.positions.get p = some r → r.state = .pending → r.deadline = some d →
    (d.toNat ≤ u.tbu.siteTime.toNat →
      ∃ t : State, exec (.holdExpiry now p) s = .next t ∧
        t = { u with ab := { u.ab with positions := t.ab.positions, versions := t.ab.versions }
                     sli := t.sli, mem := t.mem
                     atu := { u.atu with pending := u.atu.pending ||| 0x02#8 } } ∧
        t.ab.positions.get p = some { r with state := .committed, deadline := none } ∧
        (∀ k : Fin 32, k ≠ p → t.ab.positions.get k = u.ab.positions.get k) ∧
        t.ab.versions.get p = succCount (u.ab.versions.get p) ∧
        t.mem.readWord (mirrorBase p + 0x3C) = succCount (u.ab.versions.get p) ∧
        u.RecordTaken t p (some r) { r with state := .committed, deadline := none } [] ∧
        t.sli = (u.sli.afterCommit u.tbu.cycle).afterDemand true u.tbu.cycle ∧
        t.ab.demand = true ∧ t.sli.demand = true ∧
        (u.sli.mode = .level → u.sli.demand = false → t.sli.stopOut = true) ∧
        t.mem.Shows 0x28 2 (stopItems 0 t.sli t.ab) ∧
        (∀ a : Nat, (a < mirrorBase p ∨ mirrorBase p + 0x40 ≤ a) → (a < 0x28 ∨ 0x30 ≤ a) →
          t.mem.readByte a = u.mem.readByte a)) ∧
    (u.tbu.siteTime.toNat < d.toNat → exec (.holdExpiry now p) s = .next u)

/-- R105, R112, R117 to R119, R193: the answers of DECIDE_ALARM, row by row, on a board on which no two records carry
one id: the record after it, the outcome and both result words, the milliseconds left among them, and for a changed
record its mirror, the ALARM attention, the commit event of a CONFIRM and the stop demand handed on; no byte of the
memory changes but in that mirror, the stop line's words and the order's slot. That the milliseconds left stop at
4,294,967,295, and that a deferred deadline wraps as a 64-bit count, are the model's choice (notes/assumptions/22,
23). That the take of the next order is a step of its own, which has not happened in the next state, is the model's
reading (notes/assumptions/8). -/
def Obligations.DecisionsFollowTheTable : Prop :=
  ∀ (now : Cycle) (o : RunningOrder) (s : State),
    let u := s.advance now
    let id := o.arg1.toNat
    let window := BitVec.ofNat 64 (100 * u.site.settings.alarmWindow)
    let left (d : Option SiteTime) : Word := match d with
      | some d => BitVec.ofNat 32 (min 4294967295 (d.toNat - u.tbu.siteTime.toNat))
      | none => 0
    let refused (outcome : OrderOutcome) (r1 r2 : Word) : Prop :=
      ∃ t : State, exec (.decideAlarm now) s = .next t ∧ u.AnsweredFrom t o outcome r1 r2
    let decided (p : Fin 32) (r r' : AlarmRecord) (outcome : OrderOutcome) (r1 r2 : Word) : Prop :=
      ∃ t v : State, exec (.decideAlarm now) s = .next t ∧ v.AnsweredFrom t o outcome r1 r2 ∧
        v = { u with ab := { u.ab with positions := v.ab.positions, versions := v.ab.versions }
                     sli := v.sli, mem := v.mem, atu := v.atu } ∧
        u.RecordTaken v p (some r) r' [] ∧
        (∀ k : Fin 32, k ≠ p → v.ab.versions.get k = u.ab.versions.get k)
    s.Running → u.RunsOrder .decideAlarm o →
    (id = 0 ∨ 65535 < id ∨ (o.arg2 ≠ 1 ∧ o.arg2 ≠ 2 ∧ o.arg2 ≠ 3) → refused .badArgument 0 0) ∧
    (1 ≤ id → id ≤ 65535 → o.arg2 = 1 ∨ o.arg2 = 2 ∨ o.arg2 = 3 →
      ((∀ (p : Fin 32) (r : AlarmRecord), u.ab.positions.get p = some r → r.id ≠ id) →
        refused .noSuchAlarm 0 0) ∧
      (∀ (p : Fin 32) (r : AlarmRecord), u.ab.positions.get p = some r → r.id = id →
        (∀ (k : Fin 32) (t : AlarmRecord), u.ab.positions.get k = some t → t.id = id → k = p) →
        (o.arg2 = 1 → r.state = .pending →
          decided p r { r with state := .vetoed, deadline := none, decision := .veto } .done 4 0) ∧
        (o.arg2 = 1 → r.state = .committed → refused .tooLate 3 0) ∧
        (o.arg2 = 2 → r.state = .pending →
          decided p r { r with state := .committed, deadline := none, decision := .confirm } .done 3 0) ∧
        (o.arg2 = 3 → r.state = .pending → r.deferred = false →
          decided p r { r with deadline := r.deadline.map (· + window), deferred := true
                               decision := .defer } .done 2 (left (r.deadline.map (· + window)))) ∧
        (o.arg2 = 3 → r.state = .pending → r.deferred = true →
          refused .alreadyDeferred 2 (left r.deadline)) ∧
        (r.state = .informed ∨ r.state = .vetoed ∨ r.state = .cleared ∨
            (r.state = .committed ∧ o.arg2 ≠ 1) →
          refused .notPending (BitVec.ofNat 32 r.state.code) 0)))

/-- R115 to R119, R124, R125, R127, R135: CLEAR_STOP of an id clears that COMMITTED record and answers 1; ALL clears
every COMMITTED record and the unlisted-stop count and answers their numbers; the rest is refused with no effect. The
site header shows the stop line and the count as they then stand: after ALL in any case, and after one record when it
showed them before. Each cleared record's mirror shows it under its next version, ALARM is pending, and the stop line
is handed the demand that is left. That result word 2 is 0 after one record is the model's choice
(notes/assumptions/44). That the take of the next order is a step of its own, which has not happened in the next
state, is the model's reading (notes/assumptions/8). -/
def Obligations.ClearStopReleasesTheStop : Prop :=
  ∀ (now : Cycle) (o : RunningOrder) (s : State),
    let u := s.advance now
    let id := o.arg1.toNat
    let cleared (r : AlarmRecord) : AlarmRecord := { r with state := .cleared, decision := .clear }
    let committed (p : Fin 32) : Prop := ∃ r ∈ u.ab.positions.get p, r.state = .committed
    let refused (outcome : OrderOutcome) : Prop :=
      ∃ t : State, exec (.clearStop now) s = .next t ∧ u.AnsweredFrom t o outcome 0 0
    let effect (v : State) : Prop :=
      v = { u with ab := { u.ab with positions := v.ab.positions, versions := v.ab.versions
                                     unlistedStops := v.ab.unlistedStops }
                   sli := v.sli, mem := v.mem, atu := v.atu }
    s.Running → u.RunsOrder .clearStop o →
    (65535 < id → refused .badArgument) ∧
    (1 ≤ id → id ≤ 65535 →
      ((∀ (p : Fin 32) (r : AlarmRecord), u.ab.positions.get p = some r → r.id ≠ id) →
        refused .noSuchAlarm) ∧
      (∀ (p : Fin 32) (r : AlarmRecord), u.ab.positions.get p = some r → r.id = id →
        (∀ (k : Fin 32) (t : AlarmRecord), u.ab.positions.get k = some t → t.id = id → k = p) →
        (r.state ≠ .committed → refused .notCommitted) ∧
        (r.state = .committed → ∃ t v : State, exec (.clearStop now) s = .next t ∧
          v.AnsweredFrom t o .done 1 0 ∧ effect v ∧ v.ab.unlistedStops = u.ab.unlistedStops ∧
          v.ab.positions.get p = some (cleared r) ∧
          (∀ k : Fin 32, k ≠ p → v.ab.positions.get k = u.ab.positions.get k) ∧
          u.RecordTaken v p (some r) (cleared r) [] ∧
          (∀ k : Fin 32, k ≠ p → v.ab.versions.get k = u.ab.versions.get k) ∧
          (∀ a : Nat, (a < mirrorBase p ∨ mirrorBase p + 0x40 ≤ a) → (a < 0x28 ∨ 0x30 ≤ a) →
            v.mem.readByte a = u.mem.readByte a) ∧
          (u.DemandHandedOn → u.mem.Shows 0x28 2 (stopItems 0 u.sli u.ab) →
            t.mem.Shows 0x28 2 (stopItems 0 t.sli t.ab))))) ∧
    (id = 0 → ∃ t v : State, exec (.clearStop now) s = .next t ∧
      v.AnsweredFrom t o .done
        (BitVec.ofNat 32 ((List.finRange 32).countP (fun p =>
          (u.ab.positions.get p).any (fun r => r.state == .committed))))
        (BitVec.ofNat 32 (min u.ab.unlistedStops 4294967295)) ∧
      effect v ∧ v.ab.unlistedStops = 0 ∧ v.ab.demand = false ∧ v.sli.demand = false ∧
      t.mem.Shows 0x28 2 (stopItems 0 t.sli t.ab) ∧
      (u.DemandHandedOn → v.sli = u.sli.afterDemand false u.tbu.cycle) ∧
      (∀ p : Fin 32, committed p → v.ab.versions.get p = succCount (u.ab.versions.get p) ∧ v.ShowsPosition p) ∧
      (∀ p : Fin 32, ¬committed p → v.ab.versions.get p = u.ab.versions.get p) ∧
      (∀ a : Nat, (∀ p : Fin 32, committed p → a < mirrorBase p ∨ mirrorBase p + 0x40 ≤ a) → (a < 0x28 ∨ 0x30 ≤ a) →
        v.mem.readByte a = u.mem.readByte a) ∧
      ((∃ p : Fin 32, committed p) → v.atu = { u.atu with pending := u.atu.pending ||| 0x02#8 }) ∧
      ((∀ p : Fin 32, ¬committed p) → v.atu = u.atu) ∧
      ∀ (p : Fin 32), v.ab.positions.get p = (u.ab.positions.get p).map (fun r =>
        if r.state = .committed then cleared r else r))

/-- R125, R126, R135: in LEVEL mode an ack edge to the demand's level stops the timer and ends a FAULT, and an edge
away from it starts the timer of a NORMAL line if it is stopped; the timer's reaching ack_timeout is FAULT with
STOP_FAULT attention; and the site header shows the line as it then stands. -/
def Obligations.LevelLineSupervisesTheAnswer : Prop :=
  (∀ (now since : Cycle) (level : Bool) (s : State),
    let u := s.advance now
    s.Running → u.sli.mode = .level → level ≠ u.sli.ackLevel → u.StoodFor since 10000 →
    ∃ t : State, exec (.ackEdge now level since) s = .next t ∧
      t = { u with sli := t.sli, mem := t.mem } ∧ u.mem.SameOutside t.mem 0x28 8 ∧
      t.mem.Shows 0x28 2 (stopItems 0 t.sli t.ab) ∧
      t.sli = { u.sli with
        ackLevel := level
        fault := u.sli.fault && decide (level ≠ u.sli.demand)
        ackTimer := if level = u.sli.demand then none
          else if u.sli.fault then u.sli.ackTimer
          else some (u.sli.ackTimer.getD u.tbu.cycle) }) ∧
  (∀ (now start : Cycle) (s : State),
    let u := s.advance now
    s.Running → u.sli.ackTimer = some start →
    (10000 * u.site.settings.ackTimeout ≤ (u.tbu.cycle - start).toNat →
      ∃ t : State, exec (.ackTimeout now) s = .next t ∧
        t = { u with sli := { u.sli with ackTimer := none, fault := true }, mem := t.mem
                     atu := { u.atu with pending := u.atu.pending ||| 0x04#8 } } ∧
        u.mem.SameOutside t.mem 0x28 8 ∧ t.mem.Shows 0x28 2 (stopItems 0 t.sli t.ab)) ∧
    ((u.tbu.cycle - start).toNat < 10000 * u.site.settings.ackTimeout →
      exec (.ackTimeout now) s = .next u))

/-- R129, R131, R135: in PULSE mode a rising ack edge ends the awaited attempt with the line NORMAL, in PULSING by
TRAILING and in LISTENING by the end of the sequence, which starts an owed one in SPACING; in any other phase it is
stray; and a falling edge changes the ack level alone. The site header shows the line as it then stands. -/
def Obligations.PulseLineTakesTheAnswer : Prop :=
  ∀ (now since : Cycle) (level : Bool) (s : State),
    let u := s.advance now
    s.Running → u.sli.mode = .pulse → level ≠ u.sli.ackLevel → u.StoodFor since 10000 →
    ∃ t : State, exec (.ackEdge now level since) s = .next t ∧
      t = { u with sli := t.sli, mem := t.mem } ∧ u.mem.SameOutside t.mem 0x28 8 ∧
      t.mem.Shows 0x28 2 (stopItems 0 t.sli t.ab) ∧
      (level = false → t.sli = { u.sli with ackLevel := false }) ∧
      (level = true →
        (u.sli.phase = .pulsing → t.sli = { u.sli with
          ackLevel := true, fault := false, listenTimer := none, phase := .trailing, attempt := none }) ∧
        (u.sli.phase = .listening → u.sli.owed = false → t.sli = { u.sli with
          ackLevel := true, fault := false, phase := .idle, attempt := none, stopOut := false
          pulseTimer := none, listenTimer := none }) ∧
        (u.sli.phase = .listening → u.sli.owed = true → t.sli = { u.sli with
          ackLevel := true, fault := false, phase := .spacing, attempt := none, stopOut := false
          owed := false, pulseTimer := some u.tbu.cycle, listenTimer := none }) ∧
        (u.sli.phase = .idle ∨ u.sli.phase = .spacing ∨ u.sli.phase = .trailing →
          t.sli = { u.sli with ackLevel := true, stray := min 65535 (u.sli.stray + 1) }))

/-- R128, R131, R135: the running out of the pulse timer and of the listen timer moves the sequence by the table of
R128, the end of a sequence starts an owed one in SPACING, and the site header shows the line as it then stands. -/
def Obligations.SequenceTimersFollowTheTable : Prop :=
  ∀ (now start : Cycle) (s : State), s.Running →
    let u := s.advance now
    let l := u.sli
    let attempt (k : Nat) : StopLine := { l with
      phase := .pulsing, attempt := some k, stopOut := true
      pulseTimer := some u.tbu.cycle, listenTimer := some u.tbu.cycle }
    let ended (l : StopLine) : StopLine :=
      if l.owed then { l with phase := .spacing, attempt := none, stopOut := false, owed := false
                              pulseTimer := some u.tbu.cycle, listenTimer := none }
      else { l with phase := .idle, attempt := none, stopOut := false
                    pulseTimer := none, listenTimer := none }
    let becomes (c : Instr) (l' : StopLine) (cause : BitVec 8) : Prop :=
      ∃ t : State, exec c s = .next t ∧
        t = { u with sli := l', mem := t.mem
                     atu := { u.atu with pending := u.atu.pending ||| cause } } ∧
        u.mem.SameOutside t.mem 0x28 8 ∧ t.mem.Shows 0x28 2 (stopItems 0 t.sli t.ab)
    (l.pulseTimer = some start →
      10000 * u.site.settings.pulseWidth ≤ (u.tbu.cycle - start).toNat →
      (l.phase = .pulsing → becomes (.pulseTimerExpiry now)
        { l with stopOut := false, pulseTimer := none, phase := .listening } 0) ∧
      (l.phase = .trailing → becomes (.pulseTimerExpiry now) (ended l) 0) ∧
      (l.phase = .spacing → becomes (.pulseTimerExpiry now) (attempt 1) 0)) ∧
    (l.pulseTimer = some start →
      (u.tbu.cycle - start).toNat < 10000 * u.site.settings.pulseWidth →
      exec (.pulseTimerExpiry now) s = .next u) ∧
    (∀ k : Nat, l.listenTimer = some start → l.attempt = some k →
      10000 * u.site.settings.ackTimeout ≤ (u.tbu.cycle - start).toNat →
      l.phase = .pulsing ∨ l.phase = .listening →
      (k < 3 → becomes (.listenTimerExpiry now) (attempt (k + 1)) 0) ∧
      (k = 3 → l.phase = .pulsing → becomes (.listenTimerExpiry now)
        { l with fault := true, phase := .trailing, attempt := none, listenTimer := none } 0x04#8) ∧
      (k = 3 → l.phase = .listening →
        becomes (.listenTimerExpiry now) (ended { l with fault := true }) 0x04#8)) ∧
    (l.listenTimer = some start →
      (u.tbu.cycle - start).toNat < 10000 * u.site.settings.ackTimeout →
      exec (.listenTimerExpiry now) s = .next u)

/-! ### Reports -/

/-- R137, R139, R140, R145 to R147, R198, R199: with no write in flight and no lower train CLOSING, the head of the
held queue is placed FULL if the units FULL needs, with its filler, are no more than the room, otherwise SUMMARY if a
buffered report's SUMMARY so fits, and otherwise waits; a stub is placed if its units fit. The write takes the next
sequence, its buffer becomes WRITING, and only the filler and the body are written: the filler shows its size and
form, and the body the vehicle records, the axle records that the form shows, and the alarm entries, in the layouts of
chapter 11. What the tag bytes beyond the tag length, and the limit and the flags of an absent load result, show is
the model's choice (notes/assumptions/41, 42). That a shown count stops at the largest value of its field is the
model's reading (notes/assumptions/35). -/
def Obligations.HeadIsPlacedByTheRoom : Prop :=
  ∀ (now : Cycle) (h : HeldReport) (rest : List HeldReport) (s : State),
    let u := s.advance now
    let p := u.rpw.position
    let room := 5120 - u.rpw.unreleased
    let placed (form : Form) (size : Nat) : Prop :=
      ∃ (t : State) (w : ReportWrite), exec (.reportWriteStart now) s = .next t ∧
        t = { u with rpw := { u.rpw with write := some w }, mem := t.mem
                     tt := { u.tt with buffers := t.tt.buffers } } ∧
        w.form = form ∧ w.size = size ∧ w.sequence = succCount u.rpw.lastWritten ∧
        w.startedAt = u.tbu.cycle ∧
        (p + size ≤ 5120 → w.start = p ∧ w.filler = 0) ∧
        (5120 < p + size → p < 5120 → w.start = 0 ∧ w.filler = 5120 - p) ∧
        (∀ b : Fin 4, (t.buffer b) = if h.buffer = some b then
          { u.buffer b with state := .writing } else u.buffer b) ∧
        (∀ a : Nat, w.filler = 0 ∨ a < unitBase p ∨ unitBase p + 32 * w.filler ≤ a →
          (∀ b, h.buffer = some b → a < unitBase (w.start + 2) ∨
            unitBase (w.start + 2) + 4 * ((u.buffer b).bodyWords form).length ≤ a) →
          t.mem.readByte a = u.mem.readByte a) ∧
        (h.buffer = none → w.vehicles = 0 ∧ w.axles = 0 ∧ w.alarms = 0 ∧
          (0 < w.filler → t.mem.Shows (unitBase p) (8 * w.filler) [(1, 0, 32, w.filler), (5, 0, 3, 4)])) ∧
        (∀ b : Fin 4, h.buffer = some b →
          let x := u.buffer b
          let vehicles := x.consist.getD []
          let shown := x.axles.zipIdx.filter (fun e => form = .full ∨ e.1.alarmBits ≠ 0)
          let units := vehicles.length + shown.length + (x.alarms.length + 1) / 2
          let base := unitBase (w.start + 2)
          x.vehicles.length = vehicles.length →
          w.vehicles = vehicles.length ∧ w.axles = shown.length ∧ w.alarms = x.alarms.length ∧
          (0 < w.filler → 2 + units ≤ p →
            t.mem.Shows (unitBase p) (8 * w.filler) [(1, 0, 32, w.filler), (5, 0, 3, 4)]) ∧
          (∀ (k : Nat) (v : Vehicle) (y : VehicleResult), vehicles[k]? = some v → x.vehicles[k]? = some y →
            t.mem.Shows (base + 32 * k) 8 (vehicleItems v y)) ∧
          (∀ (k : Nat) (e : AxleEntry × Nat), shown[k]? = some e →
            t.mem.Shows (base + 32 * (vehicles.length + k)) 8 (axleItems e.2 e.1)) ∧
          (∀ (k : Nat) (e : AlarmEntry), x.alarms[k]? = some e →
            t.mem.Shows (base + 32 * (vehicles.length + shown.length) + 16 * k) 4 (alarmItems e)) ∧
          (x.alarms.length % 2 = 1 → t.mem.Shows (base + 32 * units - 16) 4 []))
    s.Running → u.rpw.write = none → u.rpw.held = h :: rest →
    ((∃ b : Fin 4, (u.buffer b).state = .closing ∧
        below (u.buffer b).record.number h.header.number = true) →
      exec (.reportWriteStart now) s = .next u) ∧
    ((∀ b : Fin 4, (u.buffer b).state = .closing →
        below (u.buffer b).record.number h.header.number = false) →
      (h.buffer = none → unitsNeeded p h.fullSize ≤ room → placed .stub h.fullSize) ∧
      (h.buffer ≠ none → unitsNeeded p h.fullSize ≤ room → placed .full h.fullSize) ∧
      (h.buffer ≠ none → room < unitsNeeded p h.fullSize → unitsNeeded p h.summarySize ≤ room →
        placed .summary h.summarySize) ∧
      (room < unitsNeeded p h.fullSize → h.buffer = none ∨ room < unitsNeeded p h.summarySize →
        exec (.reportWriteStart now) s = .next u))

/-- R138, R148, R152, R154, R199: the completion of a write writes the report's header, in the layout of R199 with the
lost count as it stood, and publishes the report: the index and U gain it with its filler, W is the unit after it,
WRITE_SEQ is its sequence, the lost count is 0, the report has left the held queue, its buffer is FREE, REPORT is
pending, and a high mark reached while armed raises JOURNAL_HIGH once; the site header shows the journal as it then
stands. That the write of the next head is a step of its own, which has not happened in the next state, is the model's
reading (notes/assumptions/8). That a FREE buffer holds a blank record is the model's choice (notes/assumptions/33).
That the close time less the open time is taken of unsigned numbers, over a wrap of site time too, is the model's
choice (notes/assumptions/47). That a shown count stops at the largest value of its field is the model's reading
(notes/assumptions/35). -/
def Obligations.CompletionPublishesTheReport : Prop :=
  ∀ (now : Cycle) (w : ReportWrite) (h : HeldReport) (rest : List HeldReport) (s : State),
    let u := s.advance now
    let used := u.rpw.unreleased + (w.filler + w.size)
    let high : Prop := u.rpw.highArmed = true ∧ u.site.settings.highMark ≤ used
    s.Running → u.rpw.write = some w → u.rpw.held = h :: rest →
    ∃ t : State, exec (.reportWriteComplete now) s = .next t ∧
      t = { u with rpw := t.rpw, mem := t.mem, atu := t.atu
                   tt := { u.tt with buffers := t.tt.buffers } } ∧
      t.rpw.write = none ∧ t.rpw.held = rest ∧ t.rpw.lost = 0 ∧ t.rpw.lastWritten = w.sequence ∧
      t.rpw.unreleased = used ∧ t.rpw.oldest = u.rpw.oldest ∧ t.rpw.accepted = u.rpw.accepted ∧
      t.rpw.position = (if w.start + w.size = 5120 then 0 else w.start + w.size) ∧
      t.rpw.index = u.rpw.index ++
        [{ sequence := w.sequence, filler := w.filler, start := w.start, size := w.size }] ∧
      t.mem.readWord 0 = w.sequence ∧
      (∀ b : Fin 4, t.buffer b = if h.buffer = some b then Buffer.empty else u.buffer b) ∧
      (high → t.rpw.highArmed = false ∧
        t.atu = { u.atu with pending := u.atu.pending ||| 0x11#8 }) ∧
      (¬high → t.rpw.highArmed = u.rpw.highArmed ∧
        t.atu = { u.atu with pending := u.atu.pending ||| 0x01#8 }) ∧
      t.mem.Shows (unitBase w.start) 16 (headerItems h.header w u.rpw.lost) ∧
      t.mem.Shows 8 6 [(0, 0, 32, t.rpw.accepted.toNat), (1, 0, 32, t.rpw.position), (2, 0, 32, t.rpw.oldest),
        (3, 0, 32, t.rpw.unreleased), (4, 0, 8, rest.length), (4, 8, 8, t.rpw.stubs),
        (4, 16, 1, flag (t.rpw.highArmed = true))] ∧
      ∀ a : Nat, (a < unitBase w.start ∨ unitBase w.start + 64 ≤ a) →
        (0x04 ≤ a ∧ a < 0x08 ∨ 0x20 ≤ a) → t.mem.readByte a = u.mem.readByte a

/-- R150, R152, R154: a RELEASE write below the accepted release, or one that clamps to it, stores its word and
changes nothing else; any other becomes the accepted release, clamped to the last written sequence, frees the front
entries of the index at or below it with their fillers, and is shown in the site header with the journal as it then
stands; U reaching the low mark arms the high mark again. That a value exactly 2,147,483,648 away from the last
written sequence is clamped is the model's reading (notes/assumptions/6). That the trial of the held head is a step of
its own, which has not happened in the next state, is the model's reading (notes/assumptions/8). -/
def Obligations.ReleaseFreesTheJournal : Prop :=
  ∀ (now : Cycle) (v : Word) (s : State), s.Running →
    let u := s.advance now
    let a := if v = u.rpw.lastWritten ∨ below v u.rpw.lastWritten = true then v else u.rpw.lastWritten
    let gone (e : IndexEntry) : Bool := e.sequence == a || !below a e.sequence
    ∃ t : State, exec (.releaseWrite now v) s = .next t ∧
      t = { u with rpw := t.rpw, mem := t.mem } ∧ u.mem.SameOutside t.mem 0 0x20 ∧
      t.mem.readWord 4 = v ∧
      (below v u.rpw.accepted = true → t.rpw = u.rpw ∧ u.mem.SameOutside t.mem 4 4) ∧
      (below v u.rpw.accepted = false → a = u.rpw.accepted → t.rpw = u.rpw ∧ u.mem.SameOutside t.mem 4 4) ∧
      (below v u.rpw.accepted = false → a ≠ u.rpw.accepted →
        t.mem.readWord 0 = t.rpw.lastWritten ∧ t.mem.Shows 8 6 t.rpw.siteItems ∧
        t.rpw.accepted = a ∧ t.rpw.index = u.rpw.index.dropWhile gone ∧
        t.rpw.unreleased = u.rpw.unreleased -
          ((u.rpw.index.takeWhile gone).map (fun e => e.filler + e.size)).sum ∧
        (t.rpw.index = [] → t.rpw.oldest = u.rpw.position) ∧
        (∀ e rest, t.rpw.index = e :: rest →
          t.rpw.oldest = if e.filler = 0 then e.start else 5120 - e.filler) ∧
        t.rpw.held = u.rpw.held ∧ t.rpw.write = u.rpw.write ∧
        t.rpw.position = u.rpw.position ∧ t.rpw.lastWritten = u.rpw.lastWritten ∧
        t.rpw.lost = u.rpw.lost ∧
        (t.rpw.highArmed = true ↔
          u.rpw.highArmed = true ∨ t.rpw.unreleased ≤ u.site.settings.lowMark))

/-! ### Orders -/

/-- R160, R162 to R164, R193, R195, R196, R198, R199: a POST write stores its value; by the value and the slot's state
it queues the order with its ticket, withdraws it, takes the slot back, or is ignored; it changes no other slot,
raises no attention, and leaves every word of the memory but POST and the slot's own words alone, and those too when
it is ignored. The codes in the slot's words, the order kinds and every other code of a record are those of chapter
11. That the take of the queued order is a step of its own, which has not happened in the next state, is the model's
reading (notes/assumptions/8). -/
def Obligations.PostWriteFollowsTheTable : Prop :=
  CodesAreTheManuals ∧
  ∀ (now : Cycle) (n : Fin 16) (v : Word) (s : State), s.Running →
    let u := s.advance now
    let x := u.ou.slots.get n
    let becomes (y : Slot) (queue : List (Fin 16)) : Prop :=
      ∃ t : State, exec (.postWrite now n v) s = .next t ∧
        t = { u with mem := t.mem, ou := { u.ou with slots := t.ou.slots, queue := queue } } ∧
        t.ou.slots.get n = y ∧ (∀ k : Fin 16, k ≠ n → t.ou.slots.get k = u.ou.slots.get k) ∧
        t.mem.readWord (slotBase n) = v ∧
        (y ≠ x → t.ShowsSlot n) ∧
        (y = x → u.mem.SameOutside t.mem (slotBase n) 4) ∧
        ∀ a : Nat, ¬(slotBase n ≤ a ∧ a < slotBase n + 0x0C) →
          ¬(slotBase n + 0x20 ≤ a ∧ a < slotBase n + 0x28) → t.mem.readByte a = u.mem.readByte a
    (v ≠ 0 → x.state = .idle →
      becomes { x with state := .queued, outcome := .none, ticket := v } (u.ou.queue ++ [n])) ∧
    (v ≠ 0 → x.state ≠ .idle → becomes x u.ou.queue) ∧
    (v = 0 → x.state = .queued →
      becomes { x with state := .idle, outcome := .none } (u.ou.queue.filter (fun k => k != n))) ∧
    (v = 0 → x.state = .done → becomes { x with state := .idle, outcome := .none } u.ou.queue) ∧
    (v = 0 → x.state = .idle ∨ x.state = .running ∨ x.state = .waiting → becomes x u.ou.queue)

/-- R165: whenever no order is RUNNING and the queue is not empty, the OU takes the slot at its head, which becomes
RUNNING with the kind and the four argument words read from the memory; while one runs, or with an empty queue,
nothing happens; and no host store, and no other command but the order's own completion, a reset and a power event,
changes what a running order has read. -/
def Obligations.OrderTakeReadsTheHead : Prop :=
  ∀ (now : Cycle) (s : State), s.Running →
    let u := s.advance now
    (∀ (n : Fin 16) (rest : List (Fin 16)), u.ou.running = none → u.ou.queue = n :: rest →
      ∃ t : State, exec (.orderTake now) s = .next t ∧
        t = { u with mem := t.mem, ou := { u.ou with
          slots := t.ou.slots, queue := rest
          running := some { slot := n, kind := u.mem.readWord (slotBase n + 0x0C)
                            arg1 := u.mem.readWord (slotBase n + 0x10)
                            arg2 := u.mem.readWord (slotBase n + 0x14)
                            arg3 := u.mem.readWord (slotBase n + 0x18)
                            arg4 := u.mem.readWord (slotBase n + 0x1C), takenAt := u.tbu.cycle } } } ∧
        t.ou.slots.get n = { u.ou.slots.get n with state := .running, outcome := .none } ∧
        (∀ k : Fin 16, k ≠ n → t.ou.slots.get k = u.ou.slots.get k) ∧
        u.mem.SameButSlot t.mem n ∧ t.ShowsSlot n) ∧
    (u.ou.running ≠ none ∨ u.ou.queue = [] → exec (.orderTake now) s = .next u) ∧
    (∀ (addr : BusAddr) (v : Word), ∃ t : State, exec (.hostStore now addr v) s = .next t ∧
      t.ou.running = u.ou.running) ∧
    (∀ (c : Instr) (o : RunningOrder), s.ou.running = some o → (∀ at_ : Cycle, c ≠ completionOf o.kind at_) →
      (∀ at_ : Cycle, c ≠ .siteReset at_ ∧ c ≠ .fullReset at_) →
      (∀ (at_ : Cycle) (resetN : Bool) (core io : Nat), c ≠ .powerReset at_ resetN core io) →
      ∃ t : State, exec c s = .next t ∧ t.ou.running = some o)

/-- R7, R14, R25, R123, R133, R153, R168, R183 to R186, R197: an ARM beside a waiting mode order is BUSY. Otherwise
the configuration area is read and clamped to the ranges of section 10.2; a candidate that fails a check of R184 is
refused with the index of the first failing field; a checked one is parked WAITING in its slot, with no outcome and
its clamp set kept, while a train is OPEN or a buffer CLOSING, and otherwise latched at once: the site is in WATCH,
LATCHED, under the clamped candidate, with the latch count one higher, a changed N empties the histories, a stuck
timer or an approach timer that exceeds its new limit and a stop line timer that reaches its own have run out, a new
line mode has its state, and changed marks are compared with U. So the working configuration, and that of a WAITING
ARM, always lie in the ranges and pass the checks. That BUSY is decided by what is WAITING at the completion, and the
order of the blocks at a latch, are the model's choice (notes/assumptions/27, 31). That the take of the next order is
a step of its own, which has not happened in the next state, is the model's reading (notes/assumptions/8). That a
stuck timer starts only on a detector in service is the model's reading (notes/assumptions/19). -/
def Obligations.ArmChecksThenLatchesOrWaits : Prop :=
  KeptByEveryStep State.ConfigurationSound ∧
  ∀ (now : Cycle) (o : RunningOrder) (s : State),
    let u := s.advance now
    let written := readCandidate u.mem
    let candidate := clampSettings written
    s.Running → u.RunsOrder .arm o →
    written.WrittenIn u.mem ∧ candidate.ClampOf written (clampSetOf written) ∧
    (∀ k : Nat, failingField candidate = some k ↔
      candidate.Fails k ∧ ∀ j : Nat, j < k → ¬candidate.Fails j) ∧
    ∃ t : State, exec (.arm now) s = .next t ∧
      (u.ou.waiting ≠ none → u.AnsweredFrom t o .busy 0 0) ∧
      (u.ou.waiting = none →
        (∀ k : Nat, failingField candidate = some k →
          u.AnsweredFrom t o .badConfig (BitVec.ofNat 32 k) 0) ∧
        (failingField candidate = none → u.trainsBusy = true →
          t = { u with ou := t.ou, mem := t.mem } ∧ t.ou.running = none ∧ t.ou.queue = u.ou.queue ∧
          t.ou.waiting = some (.arm o.slot candidate (clampSetOf written)) ∧
          t.ou.slots.get o.slot = { u.ou.slots.get o.slot with state := .waiting, outcome := .none } ∧
          (∀ k : Fin 16, k ≠ o.slot → t.ou.slots.get k = u.ou.slots.get k) ∧
          u.mem.SameButSlot t.mem o.slot ∧ t.ShowsSlot o.slot) ∧
        (failingField candidate = none → u.trainsBusy = false →
          ∃ v : State, v.AnsweredFrom t o .done 0 (clampSetOf written) ∧ u.LatchesTo v candidate ∧
            v.sli.mode = candidate.lineMode))

/-- R7, R14, R25, R123, R133, R153, R186, R187, R189: a WAITING ARM latches its pending configuration when no train is
OPEN and no buffer is CLOSING, with all that a latch does to the blocks, and a WAITING DISARM completes when its
buffer has left CLOSING; each answers DONE from its slot, and until then waits. The order of the blocks at a latch is
the model's choice (notes/assumptions/31). That the take of the next order is a step of its own, which has not
happened in the next state, is the model's reading (notes/assumptions/8). That a stuck timer starts only on a detector
in service is the model's reading (notes/assumptions/19). -/
def Obligations.WaitingOrdersCompleteOnTheirCondition : Prop :=
  (∀ (now : Cycle) (n : Fin 16) (candidate : Settings) (clamps : Word) (s : State),
    let u := s.advance now
    s.Running → u.ou.waiting = some (.arm n candidate clamps) →
    (u.trainsBusy = true → exec (.waitingArmLatch now) s = .next u) ∧
    (u.trainsBusy = false → ∃ t v : State, exec (.waitingArmLatch now) s = .next t ∧
      v.CompletedSlot t n .done 0 clamps ∧ t.ou.waiting = none ∧ t.ou.running = u.ou.running ∧
      u.LatchesTo v candidate)) ∧
  (∀ (now : Cycle) (n : Fin 16) (b : Fin 4) (s : State),
    let u := s.advance now
    s.Running → u.ou.waiting = some (.disarm n b) →
    ((u.buffer b).state = .closing → exec (.waitingDisarmComplete now) s = .next u) ∧
    ((u.buffer b).state ≠ .closing → ∃ t : State, exec (.waitingDisarmComplete now) s = .next t ∧
      u.CompletedSlot t n .done 0 0 ∧ t.ou.waiting = none ∧ t.ou.running = u.ou.running))

/-- R7, R42 to R45, R168, R181, R188: the rows of R188 for a DISARM: BUSY beside a waiting mode order; DONE in HALT
with nothing changed; in WATCH the site goes to HALT, which the site header shows, an approach is dropped, and an open
train closes CUT_SHORT. A buffered train's order waits on the buffer while the SE holds a request of it and is
otherwise DONE with its report in the held queue; a count-only train's stub joins the held queue, or is counted lost,
and the order is DONE. That BUSY is decided by what is WAITING at the completion is the model's reading
(notes/assumptions/27), and that both result words of a DONE in WATCH are 0 is its choice (notes/assumptions/44). That
the take of the next order, or the write of a report that joins the held queue, is a step of its own, which has not
happened in the next state, is the model's reading (notes/assumptions/8). That a stuck timer starts only on a detector
in service is the model's reading (notes/assumptions/19). That a report joins behind one whose number is exactly 2^31
away is the model's choice (notes/assumptions/48). -/
def Obligations.DisarmLeavesWatch : Prop :=
  ∀ (now : Cycle) (o : RunningOrder) (s : State),
    let u := s.advance now
    s.Running → u.RunsOrder .disarm o →
    ∃ t : State, exec (.disarm now) s = .next t ∧
      (u.ou.waiting ≠ none → u.AnsweredFrom t o .busy 0 0) ∧
      (u.ou.waiting = none →
        (u.site.mode = .halt → u.AnsweredFrom t o .done 0 0) ∧
        (u.site.mode = .watch → t.site = { u.site with mode := .halt } ∧ t.next = u.next ∧
          t.tbu = u.tbu ∧ t.se = u.se ∧ t.tt.tracker = .idle ∧
          t.tt.trainNumber = u.tt.trainNumber) ∧
        (u.site.mode = .watch → u.tt.tracker ≠ .opened →
          ∃ v : State, v.AnsweredFrom t o .done 0 0 ∧
            v = { u with site := { u.site with mode := .halt }, wdi := v.wdi, mem := v.mem
                         tt := { u.tt with tracker := .idle } } ∧
            u.HaltShown v.mem ∧
            (u.tt.tracker = .idle → v.wdi = u.wdi) ∧
            (u.tt.tracker ≠ .idle → ∀ d : Det, v.detector d = (u.detector d).supervised u.tbu.cycle)) ∧
        (u.site.mode = .watch → ∀ (place : Option (Fin 4)) (r : TrainRecord) (axles : List AxleEntry),
          u.OpenTrain place r axles → ∃ m : Memory, u.HaltShown m ∧ ∃ w : State,
            State.ClosesAs { u with site := { u.site with mode := .halt }, mem := m } w u.detector place r axles
              .cutShort ∧
            (place = none → w.AnsweredFrom t o .done 0 0) ∧
            ∀ b : Fin 4, place = some b →
              (u.se.holds r.number = false → w.AnsweredFrom t o .done 0 0) ∧
              (u.se.holds r.number = true →
                t = { w with ou := t.ou, mem := t.mem } ∧ t.ou.running = none ∧ t.ou.queue = w.ou.queue ∧
                t.ou.waiting = some (.disarm o.slot b) ∧
                t.ou.slots.get o.slot = { w.ou.slots.get o.slot with state := .waiting, outcome := .none } ∧
                (∀ k : Fin 16, k ≠ o.slot → t.ou.slots.get k = w.ou.slots.get k) ∧
                w.mem.SameButSlot t.mem o.slot ∧ t.ShowsSlot o.slot)) ∧
        (u.site.mode = .watch → u.tt.tracker = .opened → u.bufferIn .opened = none →
          t.tt.countOnly = none ∧ t.ou.waiting = none ∧ t.ou.running = none ∧
          (t.ou.slots.get o.slot).state = .done ∧ (t.ou.slots.get o.slot).outcome = .done) ∧
        (u.site.mode = .watch → u.tt.tracker = .opened → ∀ b : Fin 4, u.bufferIn .opened = some b →
          (t.buffer b).record.status = some .cutShort ∧
          (u.se.holds (u.buffer b).record.number = true →
            (t.buffer b).state = .closing ∧ t.ou.waiting = some (.disarm o.slot b) ∧
            t.ou.running = none ∧ (t.ou.slots.get o.slot).state = .waiting) ∧
          (u.se.holds (u.buffer b).record.number = false →
            (t.buffer b).state = .held ∧ t.ou.waiting = none ∧ t.ou.running = none ∧
            (t.ou.slots.get o.slot).state = .done ∧ (t.ou.slots.get o.slot).outcome = .done)))

/-- R23, R105, R111, R117, R118, R172: SET_TIME sets site time to the order's 64-bit value and the accumulator to 0
and answers DONE with both result words 0. Each hold window that the new time brings to its end then expires, one
after the other and each as its own HOLD_EXPIRY would, with its commit event, the stop demand handed on, its mirror,
its version and ALARM; with none such nothing else changes. That they expire in the order of their positions is the
model's choice (notes/assumptions/49). That the take of the next order is a step of its own, which has not happened in
the next state, is the model's reading (notes/assumptions/8). That a deadline is compared with site time as an
unsigned number is the model's reading (notes/assumptions/22). -/
def Obligations.SetTimeTakesBothWords : Prop :=
  ∀ (now : Cycle) (o : RunningOrder) (s : State),
    let u := s.advance now
    let v : State := { u with tbu := { u.tbu with siteTime := o.arg2 ++ o.arg1, accumulator := 0 } }
    let due (r : AlarmRecord) : Prop :=
      r.state = .pending ∧ ∃ d, r.deadline = some d ∧ d.toNat ≤ (o.arg2 ++ o.arg1).toNat
    s.Running → u.RunsOrder .setTime o →
    ∃ t : State, exec (.setTime now) s = .next t ∧ t.tbu = v.tbu ∧
      t.ou.running = none ∧ (t.ou.slots.get o.slot).state = .done ∧
      (t.ou.slots.get o.slot).outcome = .done ∧ (t.ou.slots.get o.slot).result1 = 0 ∧
      (t.ou.slots.get o.slot).result2 = 0 ∧
      (∀ (p : Fin 32) (r : AlarmRecord), u.ab.positions.get p = some r → due r →
        t.ab.positions.get p = some { r with state := .committed, deadline := none }) ∧
      (∀ (p : Fin 32) (r : AlarmRecord), u.ab.positions.get p = some r → ¬due r →
        t.ab.positions.get p = some r) ∧
      ((∀ (p : Fin 32) (r : AlarmRecord), u.ab.positions.get p = some r → ¬due r) →
        v.AnsweredFrom t o .done 0 0) ∧
      ∃ f : Nat → State, v.AnsweredFrom (f 0) o .done 0 0 ∧ t = f 32 ∧ ∀ p : Fin 32,
        exec (.holdExpiry now p) (f p.val) = .next (f (p.val + 1)) ∧
        (∀ r : AlarmRecord, u.ab.positions.get p = some r → due r →
          (f p.val).RecordTaken (f (p.val + 1)) p (some r)
            { r with state := .committed, deadline := none } []) ∧
        ((∀ r : AlarmRecord, u.ab.positions.get p = some r → ¬due r) → f (p.val + 1) = f p.val)

/-- R86 to R90, R197: with its checks passed, ATTACH_CONSIST copies the vehicle records of the consist area into the
NEXT slot or into the open train's buffer, DONE where the place was empty and REPLACED where it held a consist, with
the vehicle count and the consist total; the first record that fails the checks on its tag, its axle count or its kind
refuses it, with that record's position; DROP_CONSIST empties its target; each refusal changes no consist. That the
result words of a DONE DROP_CONSIST are 0 is the model's choice (notes/assumptions/44). That the take of the next
order is a step of its own, which has not happened in the next state, is the model's reading (notes/assumptions/8). -/
def Obligations.ConsistOrdersCopyAndDrop : Prop :=
  ∀ (now : Cycle) (o : RunningOrder) (s : State), s.Running →
    let u := s.advance now
    let first := o.arg2.toNat
    let count := o.arg3.toNat
    let attached (vs : List Vehicle) (held : Option (List Vehicle)) (v : State) : Prop :=
      ∃ t : State, exec (.attachConsist now) s = .next t ∧
        v.AnsweredFrom t o (if held = none then .done else .replaced) o.arg3
          (BitVec.ofNat 32 (min (vs.map (·.axles)).sum 4294967295))
    let refused (c : Instr) (outcome : OrderOutcome) (r1 : Word) : Prop :=
      ∃ t : State, exec c s = .next t ∧ u.AnsweredFrom t o outcome r1 0
    let withConsist (b : Fin 4) (x : Option (List Vehicle)) : State :=
      u.alterBuffer b (fun y => { y with consist := x })
    (u.RunsOrder .attachConsist o →
      (u.site.mode = .halt → refused (.attachConsist now) .notArmed 0) ∧
      (u.site.mode = .watch → (o.arg1 ≠ 1 ∧ o.arg1 ≠ 2) ∨ count = 0 ∨ 256 < count ∨
          512 < first + count → refused (.attachConsist now) .badArgument 0) ∧
      (u.site.mode = .watch → o.arg1 = 1 ∨ o.arg1 = 2 → 1 ≤ count → count ≤ 256 →
        first + count ≤ 512 →
        (∀ k : Nat, k < count → u.mem.VehicleFails (first + k) →
          (∀ j : Nat, j < k → ¬u.mem.VehicleFails (first + j)) →
          refused (.attachConsist now) .badArgument (BitVec.ofNat 32 (k + 1))) ∧
        ((∀ k : Nat, k < count → ¬u.mem.VehicleFails (first + k)) → ∃ vs : List Vehicle, vs.length = count ∧
          (∀ (k : Nat) (v : Vehicle), vs[k]? = some v → v.WrittenAt u.mem (first + k)) ∧
          (o.arg1 = 1 → attached vs u.next { u with next := some vs }) ∧
          (o.arg1 = 2 → u.trainOpen = false → refused (.attachConsist now) .noTrain 0) ∧
          (o.arg1 = 2 → u.trainOpen = true → u.bufferIn .opened = none →
            refused (.attachConsist now) .noBuffer 0) ∧
          (o.arg1 = 2 → ∀ b : Fin 4, u.bufferIn .opened = some b →
            attached vs (u.buffer b).consist (withConsist b (some vs)))))) ∧
    (u.RunsOrder .dropConsist o →
      (o.arg1 ≠ 1 → o.arg1 ≠ 2 → refused (.dropConsist now) .badArgument 0) ∧
      (o.arg1 = 1 → ∃ t : State, exec (.dropConsist now) s = .next t ∧
        State.AnsweredFrom { u with next := none } t o .done 0 0) ∧
      (o.arg1 = 2 → u.trainOpen = false → refused (.dropConsist now) .noTrain 0) ∧
      (o.arg1 = 2 → u.trainOpen = true → u.bufferIn .opened = none →
        refused (.dropConsist now) .noBuffer 0) ∧
      (o.arg1 = 2 → ∀ b : Fin 4, u.bufferIn .opened = some b →
        ∃ t : State, exec (.dropConsist now) s = .next t ∧
          (withConsist b none).AnsweredFrom t o .done 0 0))

/-- R179: HOLD_LIVE puts a hold in force, or restarts it, and answers the generation that is held; RELEASE_LIVE
answers whether it ended one; the hold timer's running out after 20,000,000 cycles ends the hold with LIVE_HOLD
attention. That result word 2 of both orders is 0 is the model's choice (notes/assumptions/44). That the take of the
next order is a step of its own, which has not happened in the next state, is the model's reading
(notes/assumptions/8). -/
def Obligations.LiveHoldFollowsTheTable : Prop :=
  ∀ (now : Cycle) (o : RunningOrder) (s : State), s.Running →
    let u := s.advance now
    (u.RunsOrder .holdLive o → ∃ t : State, exec (.holdLive now) s = .next t ∧
      State.AnsweredFrom { u with lvu := { u.lvu with hold := some u.tbu.cycle } } t o .done
        u.lvu.generation 0) ∧
    (u.RunsOrder .releaseLive o → ∃ t : State, exec (.releaseLive now) s = .next t ∧
      State.AnsweredFrom { u with lvu := { u.lvu with hold := none } } t o .done
        (if u.lvu.hold = none then 0 else 1) 0) ∧
    (∀ start : Cycle, u.lvu.hold = some start →
      (20000000 ≤ (u.tbu.cycle - start).toNat → exec (.holdTimerExpiry now) s = .next
        { u with lvu := { u.lvu with hold := none }
                 atu := { u.atu with pending := u.atu.pending ||| 0x80#8 } }) ∧
      ((u.tbu.cycle - start).toNat < 20000000 → exec (.holdTimerExpiry now) s = .next u))

/-- R139, R170, R195, R198: PEEK_TRAIN's checks in order, and its answer for the open train: the number of axle
records copied and entries; the summary block shows the train, the result area shows the axle records from the first
on and zeros in the rest, and only they and the slot's own words are written. That a net count stops at 2,147,483,647
either way, and what the limit and the flags of an absent load result show, is the model's choice
(notes/assumptions/35, 42). That the take of the next order is a step of its own, which has not happened in the next
state, is the model's reading (notes/assumptions/8). -/
def Obligations.PeekCopiesTheOpenTrain : Prop :=
  ∀ (now : Cycle) (o : RunningOrder) (s : State),
    let u := s.advance now
    let first := o.arg1.toNat
    let count := o.arg2.toNat
    let axles := match u.bufferIn .opened with
      | some b => (u.buffer b).axles
      | none => []
    s.Running → u.RunsOrder .peekTrain o →
    ∃ t : State, exec (.peekTrain now) s = .next t ∧
      (count = 0 ∨ 12 < count ∨ 1023 < first → u.AnsweredFrom t o .badArgument 0 0) ∧
      (1 ≤ count → count ≤ 12 → first ≤ 1023 →
        (u.openRecord = none → u.AnsweredFrom t o .noTrain 0 0) ∧
        (∀ r : TrainRecord, u.openRecord = some r → ∃ v : State,
          v.AnsweredFrom t o .done (BitVec.ofNat 32 (min count (axles.length - first)))
            (BitVec.ofNat 32 (min r.entries 4294967295)) ∧
          v = { u with mem := v.mem } ∧ u.mem.SameOutside v.mem (slotBase o.slot + 0x40) 0x1C0 ∧
          v.mem.readWord (slotBase o.slot + 0x40) = r.number ∧
          (∀ b : Fin 4, u.bufferIn .opened = some b → let x := u.buffer b
            v.mem.Shows (slotBase o.slot + 0x40) 16 (summaryItems r (some b) (x.consist.map List.length)
              x.alarms.length x.unlistedEntries x.boardFull)) ∧
          (u.bufferIn .opened = none → v.mem.Shows (slotBase o.slot + 0x40) 16
            (summaryItems r none (u.tt.countOnly.bind (·.vehicles)) 0 0 false)) ∧
          ∀ k : Nat, k < 12 →
            (∀ e : AxleEntry, axles[first + k]? = some e → k < count →
              v.mem.Shows (slotBase o.slot + 0x80 + 32 * k) 8 (axleItems (first + k) e)) ∧
            (count ≤ k ∨ axles.length ≤ first + k →
              v.mem.Shows (slotBase o.slot + 0x80 + 32 * k) 8 [])))

/-- R1, R2, R6 to R8, R13, R18, R40, R41, R171, R195: SET_CHANNEL_SERVICE of a class other than 1 to 3, of an index
beyond the 5 detectors, 16 strain channels or 4 scanners, or with a service other than 1 and 2, is refused; otherwise
the named channel enters IN_SERVICE or OUT_OF_SERVICE, the result words are its states after and before, a channel
that was IN_SERVICE goes on uninterrupted under IN, and no other channel changes. A detector that enters IN_SERVICE
occupied with no train open starts its stuck timer; with a train open, a change of a gate's tracking occupancy
suspends or resumes the quiet timer and has the close conditions evaluated, and any other order changes the detector
alone. That the take of the next order, or the write of a report that joins the held queue, is a step of its own,
which has not happened in the next state, is the model's reading (notes/assumptions/8). That a report joins behind one
whose number is exactly 2^31 away is the model's choice (notes/assumptions/48). -/
def Obligations.ServiceOrderSetsOneChannel : Prop :=
  ∀ (now : Cycle) (o : RunningOrder) (into : Bool) (s : State),
    let u := s.advance now
    let after : Service := if into then .inService else .outOfService
    let done (v : State) (before : Service) : Prop :=
      ∃ t : State, exec (.setChannelService now) s = .next t ∧
        v.AnsweredFrom t o .done (BitVec.ofNat 32 after.code) (BitVec.ofNat 32 before.code)
    let ordered (i : Fin 5) : Det → Detector :=
      u.detectorsWith (detOf i) ((u.detector (detOf i)).afterOrder into (u.tt.tracker = .opened) u.tbu.cycle)
    let occupied (d : Detector) : Prop := d.decoder ≠ .clear ∧ d.service = .inService
    let gate (i : Fin 5) : Prop := detOf i = .g1 ∨ detOf i = .g2 ∨ detOf i = .g3
    s.Running → u.RunsOrder .setChannelService o →
    ((o.arg1 ≠ 1 ∧ o.arg1 ≠ 2 ∧ o.arg1 ≠ 3) ∨ (o.arg1 = 1 ∧ 5 ≤ o.arg2.toNat) ∨
        (o.arg1 = 2 ∧ 16 ≤ o.arg2.toNat) ∨ (o.arg1 = 3 ∧ 4 ≤ o.arg2.toNat) ∨ (o.arg3 ≠ 1 ∧ o.arg3 ≠ 2) →
      ∃ t : State, exec (.setChannelService now) s = .next t ∧ u.AnsweredFrom t o .badArgument 0 0) ∧
    (o.arg3 = (if into then 1 else 2) →
      (∀ i : Fin 5, o.arg1 = 1 → o.arg2 = BitVec.ofNat 32 i.val →
        ∃ v : State, done v (u.wdi.get i).service ∧
          (v.wdi.get i).service = after ∧ (v.wdi.get i).decoder = (u.wdi.get i).decoder ∧
          (into = true → (u.wdi.get i).service = .inService → v = u) ∧
          (into = true → (u.wdi.get i).service ≠ .inService → (u.wdi.get i).decoder ≠ .clear →
            (v.wdi.get i).entrySide = none) ∧
          (into = false → (v.wdi.get i).stuckTimer = none) ∧
          (u.tt.tracker ≠ .opened → u.trainOpen = false → v = u.withDetectors (ordered i)) ∧
          (∀ (place : Option (Fin 4)) (r : TrainRecord) (axles : List AxleEntry), u.OpenTrain place r axles →
            (gate i ∧ ¬(occupied ((u.detector (detOf i))) ↔ occupied (ordered i (detOf i))) →
              u.TrainBecomes v (ordered i) place
                { r with quiet := r.quiet.atGates (GatesFree (ordered i)) u.tbu.cycle } axles) ∧
            (¬gate i ∨ (occupied (u.detector (detOf i)) ↔ occupied (ordered i (detOf i))) →
              v = u.withDetectors (ordered i))) ∧
          (∀ j : Fin 5, j ≠ i → v.wdi.get j =
            { u.wdi.get j with stuckTimer := (v.wdi.get j).stuckTimer }) ∧
          (u.trainOpen = false → v = { u with wdi := v.wdi } ∧
            ∀ j : Fin 5, j ≠ i → v.wdi.get j = u.wdi.get j)) ∧
      (∀ n : Fin 16, o.arg1 = 2 → o.arg2 = BitVec.ofNat 32 n.val →
        let i := if u.site.settings.railSwap then n + 8 else n
        ∃ v : State, done v (u.sau.channels.get i).service ∧
          v = { u with sau := { u.sau with channels := v.sau.channels } } ∧
          (into = true → (u.sau.channels.get i).service = .inService → v = u) ∧
          (into = false ∨ (u.sau.channels.get i).service ≠ .inService →
            v.sau.channels.get i = { u.sau.channels.get i with service := after, flatRun := none }) ∧
          ∀ j : Fin 16, j ≠ i → v.sau.channels.get j = u.sau.channels.get j) ∧
      (∀ n : Fin 4, o.arg1 = 3 → o.arg2 = BitVec.ofNat 32 n.val →
        let l := scannerLink u.site.settings.railSwap n
        ∃ v : State, done v (u.tsu.scanners.get l).service ∧ v = { u with tsu := v.tsu } ∧
          v.tsu.scanners.get l = { u.tsu.scanners.get l with
            service := after
            linkTimer := if into = true ∧ (u.tsu.scanners.get l).service ≠ .inService then
              u.tbu.cycle else (u.tsu.scanners.get l).linkTimer } ∧
          ∀ j : Fin 4, j ≠ l → v.tsu.scanners.get j = u.tsu.scanners.get j))

/-- R167, R195: an order whose kind word is not one of the eleven completes UNKNOWN_KIND, with both result words 0 and
no effect. That the take of the next order is a step of its own, which has not happened in the next state, is the
model's reading (notes/assumptions/8). -/
def Obligations.UnknownKindIsAnswered : Prop :=
  ∀ (now : Cycle) (o : RunningOrder) (s : State),
    let u := s.advance now
    s.Running → u.ou.running = some o → o.kind.toNat = 0 ∨ 11 < o.kind.toNat →
    ∃ t : State, exec (.unknownKind now) s = .next t ∧ u.AnsweredFrom t o .unknownKind 0 0

/-! ### Attention, the live view, the host and the resets -/

/-- R174 to R176: a read of ATTN returns exactly the causes that are pending and unmasked and clears exactly those,
after which the line is not asserted until an unmasked cause is raised again; a write of ATTN_MASK replaces every
enable and leaves the pending flags, and the line is asserted exactly when some pending cause is unmasked. That the
word a read returns is held in State is the model's own (notes/assumptions/29). -/
def Obligations.AttentionIsReadAndMasked : Prop :=
  ∀ (now : Cycle) (v : Word) (s : State), s.Running →
    let u := s.advance now
    (∃ t : State, exec (.attnRead now) s = .next t ∧
      t = { u with bus := t.bus, atu := { u.atu with pending := t.atu.pending } } ∧
      (∀ i : Nat, i < 8 →
        (t.bus.getLsbD i = (u.atu.pending.getLsbD i && u.atu.mask.getLsbD i)) ∧
        (t.atu.pending.getLsbD i = (u.atu.pending.getLsbD i && !u.atu.mask.getLsbD i))) ∧
      (∀ i : Nat, 8 ≤ i → t.bus.getLsbD i = false) ∧ t.attentionLine = false ∧
      ∀ c : Cause, (t.raise c).attentionLine = true ↔ u.atu.mask &&& c.bit ≠ 0#8) ∧
    (∃ t : State, exec (.attnMaskWrite now v) s = .next t ∧
      t = { u with atu := { u.atu with mask := t.atu.mask } } ∧
      (∀ i : Nat, i < 8 → t.atu.mask.getLsbD i = v.getLsbD i) ∧
      (t.attentionLine = true ↔
        ∃ i : Nat, i < 8 ∧ u.atu.pending.getLsbD i = true ∧ v.getLsbD i = true))

/-- R177, R178, R196: at a nonzero multiple of 1,000,000 cycles with no hold in force a refresh writes every item of
the live view, in the layout of R196, and nothing else, and, last, the generation, one higher, with 4,294,967,295
followed by 1; during a hold, or at any other instant, cycle 0 among them, nothing is written. The mark of the last
refresh is the model's own (notes/assumptions/14), and that the net point of a channel whose history is empty is
absent, also when it has a baseline, is its reading (notes/assumptions/21). -/
def Obligations.LiveViewRefreshes : Prop :=
  ∀ (now : Cycle) (s : State), s.Running →
    let u := s.advance now
    (u.tbu.cycle ≠ 0 → u.tbu.cycle.toNat % 1000000 = 0 → u.lvu.hold = none →
      u.lvu.refreshedAt ≠ some u.tbu.cycle →
      ∃ t : State, exec (.liveRefresh now) s = .next t ∧
        t = { u with mem := t.mem, lvu := { u.lvu with
          generation := if u.lvu.generation = 4294967295 then 1 else u.lvu.generation + 1
          refreshedAt := some u.tbu.cycle } } ∧
        t.mem.readWord 0x2A00 = t.lvu.generation ∧
        t.mem.readWord 0x2A10 = u.tbu.cycle.extractLsb' 0 32 ∧
        t.mem.readWord 0x2A14 = u.tbu.cycle.extractLsb' 32 32 ∧
        t.mem.readWord 0x2A38 = u.site.latchCount ∧
        t.mem.Shows 0x2A00 47 (u.liveItems t.lvu.generation) ∧
        u.mem.SameOutside t.mem 0x2A00 188) ∧
    (u.lvu.hold ≠ none ∨ u.tbu.cycle.toNat % 1000000 ≠ 0 ∨ u.tbu.cycle = 0 →
      exec (.liveRefresh now) s = .next u)

/-- R157, R159, R160, R192, R194, R195: the host may write the RELEASE word, the POST, kind and argument words of each
slot, the configuration area, the consist area, host scratch, ATTN_MASK and SITE_CTRL, and every other write is
dropped. A host store to a host-writable word that is not watched stores that word and nothing else. A host read
returns the word of the exchange memory, the fixed IDENT, the causes of ATTN that are pending and unmasked, or the
mask, and 0 from SITE_CTRL and every address after it. That reads other than that of ATTN are a function of the state
and no commands is the model's choice (notes/assumptions/29). -/
def Obligations.HostStoreWritesOneWord : Prop :=
  ∀ (now : Cycle) (addr : BusAddr) (v : Word) (s : State),
    let u := s.advance now
    let place := 4 * addr.toNat
    let argument : Prop := ∃ n : Fin 16, 0x20C + 512 * n.val ≤ place ∧ place < 0x220 + 512 * n.val
    let stored : Prop := argument ∨ (0x2C00 ≤ place ∧ place < 0x7000) ∨ (0x2F000 ≤ place ∧ place < 0x40000)
    s.Running →
    (stored → ∃ t : State, exec (.hostStore now addr v) s = .next t ∧ t = { u with mem := t.mem } ∧
      t.mem.readWord place = v ∧ u.mem.SameOutside t.mem place 4) ∧
    (hostWord addr = .store ↔ stored) ∧ (hostWord addr = .release ↔ place = 4) ∧
    (∀ n : Fin 16, hostWord addr = .post n ↔ place = 0x200 + 512 * n.val) ∧
    (hostWord addr = .attnMask ↔ place = 0x40008) ∧ (hostWord addr = .siteCtrl ↔ place = 0x4000C) ∧
    (hostWord addr = .dropped ↔ ¬stored ∧ place ≠ 4 ∧ (∀ n : Fin 16, place ≠ 0x200 + 512 * n.val) ∧
      place ≠ 0x40008 ∧ place ≠ 0x4000C) ∧
    (hostWord addr = .dropped → exec (.droppedWrite now addr v) s = .next u) ∧
    (place < 0x40000 → s.hostRead addr = s.mem.readWord place) ∧
    (place = 0x40000 → s.hostRead addr = 0x00027240) ∧
    (place = 0x40004 → ∀ i : Nat, (s.hostRead addr).getLsbD i = (s.atu.pending.getLsbD i && s.atu.mask.getLsbD i)) ∧
    (place = 0x40008 → ∀ i : Nat, (s.hostRead addr).getLsbD i = s.atu.mask.getLsbD i) ∧
    (0x4000C ≤ place → s.hostRead addr = 0)

/-- R15, R19, R47, R54, R121, R134, R156, R161, R169, R173, R180, R190: a site reset completes in every state. It
commits every PENDING record, its deadline absent, each with its own commit event to the SLI, leaves the SE idle with
an abandoned settlement's entry PASSED again, drops the open train, whose buffer becomes FREE, or the approach, with
the stuck timers started; it then finishes every CLOSING buffer, one after the other in increasing train number and
each as its own CLOSE_COMPUTATIONS would, and the reports join the held queue, which keeps those it holds; it ends
every QUEUED, RUNNING and WAITING order ABORTED with both result words 0, and ends a live hold. Decoders, baselines,
service states, histories, ambients, the site mode, the configuration, the latch count, F, site time, the NEXT slot,
the journal, the unlisted-stop count, the mask and the train number are kept; ALARM becomes pending for a commitment,
ORDER for an aborted order, and no other cause does. No area of the memory is cleared: only the words of the site
header that show the journal and the stop line, the mirrors, and the words of the ended orders' slots are written.
That the trial of the held head is a step of its own, which has not happened in the next state, is the model's reading
(notes/assumptions/8). That a FREE buffer holds a blank record is the model's choice (notes/assumptions/33). The order
of two CLOSING trains exactly 2^31 apart is the model's choice (notes/assumptions/48). -/
def Obligations.SiteResetDropsUnfinishedWork : Prop :=
  ∀ (now : Cycle) (s : State), s.Running →
    let u := s.advance now
    let pending (p : Fin 32) : Prop := ∃ r ∈ u.ab.positions.get p, r.state = .pending
    let waiting (n : Fin 16) : Prop := (u.ou.slots.get n).state ≠ .idle ∧ (u.ou.slots.get n).state ≠ .done
    ∃ t : State, exec (.siteReset now) s = .next t ∧
      t = { u with wdi := t.wdi, sau := t.sau, tt := t.tt, se := t.se, ab := t.ab, sli := t.sli, rpw := t.rpw
                   ou := t.ou, atu := t.atu, lvu := t.lvu, mem := t.mem } ∧
      t.site = u.site ∧ t.tbu = u.tbu ∧ t.sau.channels.toList.map (·.history) =
        u.sau.channels.toList.map (·.history) ∧ t.tsu = u.tsu ∧ t.next = u.next ∧
      t.atu.mask = u.atu.mask ∧ t.tt.trainNumber = u.tt.trainNumber ∧ t.power = u.power ∧
      t.tt.tracker = .idle ∧ t.tt.countOnly = none ∧
      t.se = { u.se with queue := [], inFlight := none } ∧
      t.lvu = { u.lvu with hold := none } ∧
      t.ou.queue = [] ∧ t.ou.running = none ∧ t.ou.waiting = none ∧
      (∀ n : Fin 16, (u.ou.slots.get n).state = .idle ∨ (u.ou.slots.get n).state = .done →
        t.ou.slots.get n = u.ou.slots.get n) ∧
      (∀ n : Fin 16, (u.ou.slots.get n).state ≠ .idle → (u.ou.slots.get n).state ≠ .done →
        t.ou.slots.get n = { u.ou.slots.get n with
          state := .done, outcome := .aborted, result1 := 0, result2 := 0 } ∧ t.ShowsSlot n) ∧
      (∀ b : Fin 4, (u.buffer b).state = .closing → (t.buffer b).state = .held) ∧
      (∀ b : Fin 4, (u.buffer b).state = .held ∨ (u.buffer b).state = .writing ∨
        (u.buffer b).state = .free → t.buffer b = u.buffer b) ∧
      t.rpw.write = u.rpw.write ∧ t.rpw.index = u.rpw.index ∧ t.rpw.unreleased = u.rpw.unreleased ∧
      t.rpw.accepted = u.rpw.accepted ∧ t.rpw.lastWritten = u.rpw.lastWritten ∧
      t.rpw = { u.rpw with held := t.rpw.held } ∧ u.rpw.held.Sublist t.rpw.held ∧ t.sau = u.sau ∧
      (∀ d : Det, t.detector d = (u.detector d).supervised u.tbu.cycle) ∧
      (∀ b : Fin 4, (u.buffer b).state = .opened → (∀ a : Fin 4, (u.buffer a).state = .opened → a = b) →
        t.buffer b = Buffer.empty) ∧
      (∀ b : Fin 4, (u.buffer b).state = .closing →
        (t.buffer b).record = (u.buffer b).record ∧ (t.buffer b).consist = (u.buffer b).consist ∧
        (∀ e ∈ (t.buffer b).alarms, e.outcome.isSome = true) ∧ ∃ h ∈ t.rpw.held, h.buffer = some b) ∧
      t.rpw.held.length = u.rpw.held.length + (List.finRange 4).countP (fun b => (u.buffer b).state = .closing) ∧
      (∀ (f : Settlement) (b : Fin 4) (e : AxleEntry), u.se.inFlight = some f →
        u.bufferOf f.request.train = some b → (u.buffer b).state = .closing →
        (u.buffer b).axles[f.request.axle]? = some e → ∃ e' : AxleEntry,
          (t.buffer b).axles[f.request.axle]? = some e' ∧
          e'.state = if e.state = .settling then .passed else e.state) ∧
      (∀ (p : Fin 32) (r : AlarmRecord), u.ab.positions.get p = some r → r.state = .pending →
        ∃ value : Nat, t.ab.positions.get p =
          some { r with state := .committed, deadline := none, value := value }) ∧
      ((∀ b : Fin 4, (u.buffer b).state ≠ .closing) →
        t.ab = { u.ab with positions := t.ab.positions, versions := t.ab.versions } ∧
        ∀ p : Fin 32,
          t.ab.positions.get p = (u.ab.positions.get p).map (fun r =>
            if r.state = .pending then { r with state := .committed, deadline := none } else r) ∧
          (pending p → t.ab.versions.get p = succCount (u.ab.versions.get p) ∧ t.ShowsPosition p) ∧
          (¬pending p → t.ab.versions.get p = u.ab.versions.get p)) ∧
      t.ab.unlistedStops = u.ab.unlistedStops ∧
      (u.DemandHandedOn →
        let commits := (List.finRange 32).countP (fun p => decide (pending p))
        t.sli = ((fun l : StopLine => l.afterCommit u.tbu.cycle)^[commits] u.sli).afterDemand
          (u.ab.demand || decide (0 < commits)) u.tbu.cycle) ∧
      (∀ k : Nat, k ≠ 1 → k ≠ 3 → t.atu.pending.getLsbD k = u.atu.pending.getLsbD k) ∧
      ((∃ p : Fin 32, pending p) → t.atu.pending.getLsbD 1 = true) ∧
      ((∀ p : Fin 32, ¬pending p) → (∀ b : Fin 4, (u.buffer b).state ≠ .closing) →
        t.atu.pending.getLsbD 1 = u.atu.pending.getLsbD 1) ∧
      (t.atu.pending.getLsbD 3 = true ↔ u.atu.pending.getLsbD 3 = true ∨ ∃ n : Fin 16, waiting n) ∧
      ((∃ b : Fin 4, (u.buffer b).state = .closing) →
        t.mem.readWord 0 = t.rpw.lastWritten ∧ t.mem.Shows 8 6 t.rpw.siteItems) ∧
      (∀ a : Nat, (4 ≤ a ∧ a < 8) ∨ (0x20 ≤ a ∧ a < 0x28) ∨ (0x30 ≤ a ∧ a < 0x2200) ∨ 0x2A00 ≤ a →
        (∀ n : Fin 16, waiting n → ¬(slotBase n + 0x04 ≤ a ∧ a < slotBase n + 0x0C) ∧
          ¬(slotBase n + 0x20 ≤ a ∧ a < slotBase n + 0x28)) →
        t.mem.readByte a = u.mem.readByte a) ∧
      ∃ (closing : List (Fin 4)) (f : Nat → State),
        closing.Nodup ∧ (∀ b : Fin 4, b ∈ closing ↔ (u.buffer b).state = .closing) ∧
        (∀ (k : Nat) (a b : Fin 4), closing[k]? = some a → closing[k + 1]? = some b →
          below (u.buffer b).record.number (u.buffer a).record.number = false) ∧
        u.DropsWork (f 0) ∧
        (∀ (k : Nat) (b : Fin 4), closing[k]? = some b →
          (f k).se.holds (u.buffer b).record.number = false ∧
          exec (.closeComputations now b) (f k) = .next (f (k + 1))) ∧
        (f closing.length).EndsOrders t

/-- R15, R19, R20, R46, R54, R120, R122, R136, R161, R169, R181, R191: a full reset returns every block to its
full-reset state, which holds the values the manual states: HALT, UNCONFIGURED, the defaults of section 10.2, empty
histories, an empty board, a deasserted stop line and an empty journal among them. The site header, the slot heads,
the mirror and the live view read 0 but for *high armed*, and the rest of the memory keeps its contents. The blank
record of a FREE buffer, the model's own marks, and the bus word that a reset leaves alone are its choice
(notes/assumptions/14, 29, 33). -/
def Obligations.FullResetReturnsEveryBlock : Prop :=
  State.reset.JustReset ∧
  ∀ (now : Cycle) (s : State), s.Running →
    ∃ t : State, exec (.fullReset now) s = .next t ∧
      t = { State.reset with pending := s.pending, power := s.power, bus := s.bus, mem := t.mem } ∧
      t.JustReset ∧
      (∀ a : Nat, a < 0x200 ∨ (0x2200 ≤ a ∧ a < 0x2C00) ∨
          (∃ n : Fin 16, slotBase n ≤ a ∧ a < slotBase n + 0x40) →
        t.mem.readByte a = if a = 0x1A then 1 else 0) ∧
      (∀ a : Nat, 0x2C00 ≤ a ∨ (∃ n : Fin 16, slotBase n + 0x40 ≤ a ∧ a < slotBase n + 0x200) →
        t.mem.readByte a = s.mem.readByte a)

/-- R161, R191, R200: a low RESET_N or a supply outside its range holds the part in full reset; while both supplies
are in range and RESET_N is high a held part is released by the full reset of R191, which leaves the site header, the
slot heads, the mirror and the live view 0 but for *high armed*, and a running one runs on. What stands during the
hold, that the counter starts from 0 at the release, and that the rest of the memory keeps its contents after a hold
by RESET_N alone, are the model's choice (notes/assumptions/10, 11), and so are the blank record of a FREE buffer, the
model's own marks, and the bus word that a reset leaves alone (notes/assumptions/14, 29, 33). -/
def Obligations.PowerHoldsThePartInReset : Prop :=
  ∀ (now : Cycle) (resetN : Bool) (core io : Nat) (s : State),
    let good : Prop := resetN = true ∧ 1140 ≤ core ∧ core ≤ 1260 ∧ 3000 ≤ io ∧ io ≤ 3600
    ∃ t : State, exec (.powerReset now resetN core io) s = .next t ∧
      t.pending = s.pending ∧
      t.power.resetN = resetN ∧ t.power.vddCore = core ∧ t.power.vddIo = io ∧
      (t.power.held = true ↔ ¬good) ∧
      (¬good → t = { State.reset with pending := s.pending, power := t.power, bus := s.bus
                                      mem := s.mem }) ∧
      (good → s.power.held = true →
        t = { State.reset with pending := s.pending, power := t.power, bus := s.bus, mem := t.mem } ∧
        (∀ a : Nat, a < 0x200 ∨ (0x2200 ≤ a ∧ a < 0x2C00) ∨
            (∃ n : Fin 16, slotBase n ≤ a ∧ a < slotBase n + 0x40) →
          t.mem.readByte a = if a = 0x1A then 1 else 0) ∧
        (s.power.supplyLost = false → ∀ a : Nat,
          0x2C00 ≤ a ∨ (∃ n : Fin 16, slotBase n + 0x40 ≤ a ∧ a < slotBase n + 0x200) →
            t.mem.readByte a = s.mem.readByte a)) ∧
      (good → s.power.held = false → t = { s.advance now with power := t.power })

/-! ### Invariants -/

/-- The exchange memory keeps its canonical form, which is the model's own, at every step. That an unlisted byte reads
0 is the model's choice (notes/assumptions/3). -/
def Obligations.MemoryStaysCanonical : Prop := KeptByEveryStep State.MemoryCanonical

/-- R29: every train's record keeps its bounds at every step. -/
def Obligations.TrainCountsStayBounded : Prop := KeptByEveryStep State.CountsBounded

/-- R117: the stop demand is active exactly when a record is COMMITTED or the unlisted-stop count is above zero,
and the SLI's demand copy stays the stop demand of the board at every step. -/
def Obligations.StopDemandStaysHandedOn : Prop :=
  (∀ b : Board, b.demand = true ↔
    (∃ (p : Fin 32) (r : AlarmRecord), b.positions.get p = some r ∧ r.state = .committed) ∨
      0 < b.unlistedStops) ∧
  KeptByEveryStep State.DemandHandedOn

/-- R99 to R101, R105 to R110, R118, R119: an alarm handed to the AB is placed on the board when it is a WARN or a
STOP: it updates, escalates or raises again the record of its key, takes the lowest empty position, evicts the first
spent record, or is refused; it is then entered in its train's list, and its kind's bit is set in its axle's entry; no
byte of the memory changes but in the mirrors of the record and, at an eviction, of those behind it, and in the stop
line's words. At every step no two records of the board come to carry one key, and, but for a full reset, every record
stays on the board, moves on as R105 allows (its level never falls, and a VETOED record stays VETOED), or was spent
and gives its position to a new one. That a new deadline is site time plus the hold window modulo 2^64 is the model's
reading (notes/assumptions/22). -/
def Obligations.BoardKeysStayDistinct : Prop :=
  KeptByEveryStep State.KeysDistinct ∧
  (∀ (a : Alarm) (b : Fin 4) (s : State), s.KeysDistinct → s.bufferOf a.train = some b →
    ∃ (v : State) (y : Buffer) (id : Nat) (refused : Bool),
      (a.level = .note → v = s ∧ refused = false) ∧ (a.level ≠ .note → s.Places v a refused) ∧
      (∀ (p : Fin 32) (r : AlarmRecord), v.ab.positions.get p = some r → r.train = a.train → r.axle = a.axle →
        r.rail = a.rail → r.kind = a.kind → id = r.id) ∧
      ((∀ (p : Fin 32) (r : AlarmRecord), v.ab.positions.get p = some r →
        ¬(r.train = a.train ∧ r.axle = a.axle ∧ r.rail = a.rail ∧ r.kind = a.kind)) → id = 0) ∧
      (s.buffer b).Lists y a id refused ∧
      s.raiseForAxle a = v.withBuffer b { y with axles := y.axles.modify a.axle (fun e =>
        { e with alarmBits := e.alarmBits ||| a.kind.bit }) }) ∧
  ∀ s t : State, step s = .next t →
    s.BoardMovesTo t ∨
    (∀ p : Fin 32, t.ab.positions.get p = none) ∧ ∃ (c : Instr) (rest : List Instr), s.pending = c :: rest ∧
      ((∃ now, c = .fullReset now) ∨ ∃ now resetN core io, c = .powerReset now resetN core io)

/-- R164, R165, R168: at every step the order queue stays the list of the QUEUED slots, each once, and the
RUNNING and WAITING slots stay those of the running and the waiting order. -/
def Obligations.OrderQueueStaysSound : Prop := KeptByEveryStep State.OrdersSound

/-- R7, R27, R141: at every step the tracker is OPEN exactly while one train is open, no stuck timer runs then,
and the held queue names each HELD or WRITING buffer once, beside at most 8 stubs. -/
def Obligations.BuffersStaySound : Prop := KeptByEveryStep State.BuffersSound

/-- R144: at every step the unreleased units stay those of the journal index, and never exceed 5,120. -/
def Obligations.JournalStaysBounded : Prop := KeptByEveryStep State.JournalBounded

/-- The state after reset has every invariant above, and its working configuration is sound. The values of State.reset
which the manual does not state are the model's choice (notes/assumptions/3, 14, 33). -/
def Obligations.ResetMeetsEveryInvariant : Prop :=
  State.reset.MemoryCanonical ∧ State.reset.CountsBounded ∧ State.reset.DemandHandedOn ∧
  State.reset.KeysDistinct ∧ State.reset.OrdersSound ∧ State.reset.BuffersSound ∧
  State.reset.JournalBounded ∧ State.reset.ConfigurationSound
end

