-- ==== Sys2Proof/Laws/Memory.lean ====
section
/-!
SUPPORT. The laws of the exchange memory: every write keeps the canonical form, a read after a write gives
what was written, and a write leaves every other byte alone.
-/

namespace Sys2Proof.Machine

open Sys2Proof

/-! ### The cells of a run -/

theorem Memory.cells_mem (bs : List Byte) : ∀ (base : Nat) (c : Host.Cell), c ∈ Memory.cells base bs →
    base ≤ c.1 ∧ c.1 < base + bs.length ∧ c.2 ≠ Memory.unlisted := by
  induction bs with
  | nil => simp [Memory.cells]
  | cons b bs ih =>
    intro base c hc
    unfold Memory.cells at hc
    split at hc
    · obtain ⟨h1, h2, h3⟩ := ih _ _ hc
      exact ⟨by omega, by simp only [List.length_cons]; omega, h3⟩
    · rcases List.mem_cons.mp hc with rfl | hc
      · simp_all
      · obtain ⟨h1, h2, h3⟩ := ih _ _ hc
        exact ⟨by omega, by simp only [List.length_cons]; omega, h3⟩

theorem Memory.cells_pairwise (bs : List Byte) : ∀ base : Nat,
    (Memory.cells base bs).Pairwise (fun a b => a.1 < b.1) := by
  induction bs with
  | nil => simp [Memory.cells]
  | cons b bs ih =>
    intro base
    unfold Memory.cells
    split
    · exact ih _
    · refine List.pairwise_cons.mpr ⟨fun c hc => ?_, ih _⟩
      have := Memory.cells_mem _ _ _ hc
      simp only
      omega

/-! ### The canonical form -/

/-- The one write keeps the canonical form. -/
theorem Memory.writeBytes_wf {m : Memory} (h : m.wf) (base : Nat) (bs : List Byte) :
    (m.writeBytes base bs).wf := by
  obtain ⟨hp, hn⟩ := h
  constructor
  · unfold Memory.writeBytes
    rw [List.pairwise_append, List.pairwise_append]
    refine ⟨hp.filter _, ⟨Memory.cells_pairwise _ _, hp.filter _, ?_⟩, ?_⟩
    · intro a ha b hb
      have := Memory.cells_mem _ _ _ ha
      have := (List.mem_filter.mp hb).2
      simp only [decide_eq_true_eq] at this
      omega
    · intro a ha b hb
      have ha := (List.mem_filter.mp ha).2
      simp only [decide_eq_true_eq] at ha
      rcases List.mem_append.mp hb with hb | hb
      · have := Memory.cells_mem _ _ _ hb
        omega
      · have := (List.mem_filter.mp hb).2
        simp only [decide_eq_true_eq] at this
        omega
  · intro c hc
    unfold Memory.writeBytes at hc
    rcases List.mem_append.mp hc with hc | hc
    · exact hn _ (List.mem_filter.mp hc).1
    · rcases List.mem_append.mp hc with hc | hc
      · exact (Memory.cells_mem _ _ _ hc).2.2
      · exact hn _ (List.mem_filter.mp hc).1

theorem Memory.writeWords_wf {m : Memory} (h : m.wf) (base : Nat) (ws : List Word) :
    (m.writeWords base ws).wf := Memory.writeBytes_wf h _ _

theorem Memory.writeWord_wf {m : Memory} (h : m.wf) (a : Nat) (w : Word) : (m.writeWord a w).wf :=
  Memory.writeBytes_wf h _ _

theorem Memory.zero_wf {m : Memory} (h : m.wf) (base n : Nat) : (m.zero base n).wf :=
  Memory.writeBytes_wf h _ _

theorem Memory.storeAll_wf {m : Memory} (h : m.wf) (cs : List Host.Cell) : (m.storeAll cs).wf := by
  unfold Memory.storeAll
  induction cs generalizing m with
  | nil => exact h
  | cons c cs ih => exact ih (Memory.writeBytes_wf h _ _)

theorem Memory.empty_wf : Memory.wf [] := by simp [Memory.wf]

/-- The memory after reset has the canonical form. -/
theorem State.reset_mem_wf : State.reset.mem.wf := by decide

/-! ### Reading what was written -/

theorem Memory.lookup_filter_keep (m : Memory) (p : Nat → Bool) (a : Nat) (h : p a = true) :
    (m.filter (fun c => p c.1)).lookup a = m.lookup a := by
  induction m with
  | nil => rfl
  | cons c m ih =>
    obtain ⟨k, v⟩ := c
    by_cases hk : a = k
    · subst hk
      simp [h, List.lookup]
    · by_cases hp : p k = true
      · simp [hp, List.lookup_cons, ih, beq_false_of_ne hk]
      · simp [hp, List.lookup_cons, ih, beq_false_of_ne hk]

theorem Memory.lookup_none (m : Memory) (a : Nat) (h : ∀ c ∈ m, c.1 ≠ a) : m.lookup a = none := by
  induction m with
  | nil => rfl
  | cons c m ih =>
    obtain ⟨k, v⟩ := c
    have hk : a ≠ k := fun e => h (k, v) (by simp) e.symm
    simp only [List.lookup_cons, beq_false_of_ne hk]
    exact ih (fun c hc => h c (by simp [hc]))

/-- A write leaves every byte outside its run alone. -/
theorem Memory.readByte_writeBytes_outside (m : Memory) (base : Nat) (bs : List Byte) (a : Nat)
    (h : a < base ∨ base + bs.length ≤ a) : (m.writeBytes base bs).readByte a = m.readByte a := by
  have hcells : (Memory.cells base bs).lookup a = none :=
    Memory.lookup_none _ _ (fun c hc => by have := Memory.cells_mem _ _ _ hc; omega)
  unfold Memory.readByte Memory.writeBytes
  rw [List.lookup_append, List.lookup_append, hcells]
  rcases h with h | h
  · rw [Memory.lookup_filter_keep m (fun k => k < base) a (by simpa using h)]
    rw [Memory.lookup_none (m.filter _) a]
    · simp
    · intro c hc
      have := (List.mem_filter.mp hc).2
      simp only [decide_eq_true_eq] at this
      omega
  · rw [Memory.lookup_filter_keep m (fun k => base + bs.length ≤ k) a (by simpa using h)]
    rw [Memory.lookup_none (m.filter (fun c => c.1 < base)) a]
    · simp
    · intro c hc
      have := (List.mem_filter.mp hc).2
      simp only [decide_eq_true_eq] at this
      omega

theorem Memory.cells_lookup (bs : List Byte) : ∀ (base i : Nat) (h : i < bs.length),
    ((Memory.cells base bs).lookup (base + i)).getD Memory.unlisted = bs[i] := by
  induction bs with
  | nil => simp
  | cons b bs ih =>
    intro base i h
    cases i with
    | zero =>
      unfold Memory.cells
      split
      · rw [Memory.lookup_none]
        · simp_all
        · intro c hc
          have := Memory.cells_mem _ _ _ hc
          omega
      · simp
    | succ i =>
      have hi : i < bs.length := by simpa using h
      have := ih (base + 1) i hi
      rw [show base + 1 + i = base + (i + 1) by omega] at this
      unfold Memory.cells
      split
      · simpa using this
      · have hne : base + (i + 1) ≠ base := by omega
        simp only [List.lookup_cons, beq_false_of_ne hne]
        simpa using this

/-- A read inside a written run gives what was written. -/
theorem Memory.readByte_writeBytes_inside (m : Memory) (base : Nat) (bs : List Byte) (i : Nat)
    (h : i < bs.length) : (m.writeBytes base bs).readByte (base + i) = bs[i] := by
  have hlow : (m.filter (fun c => c.1 < base)).lookup (base + i) = none :=
    Memory.lookup_none _ _ (fun c hc => by
      have := (List.mem_filter.mp hc).2
      simp only [decide_eq_true_eq] at this
      omega)
  have hhigh : (m.filter (fun c => base + bs.length ≤ c.1)).lookup (base + i) = none :=
    Memory.lookup_none _ _ (fun c hc => by
      have := (List.mem_filter.mp hc).2
      simp only [decide_eq_true_eq] at this
      omega)
  have := Memory.cells_lookup bs base i h
  unfold Memory.readByte Memory.writeBytes
  rw [List.lookup_append, List.lookup_append, hlow, hhigh]
  simpa using this

theorem wordBytes_length (w : Word) : (wordBytes w).length = 4 := rfl

theorem wordOfBytes_wordBytes (w : Word) :
    wordOfBytes (w.extractLsb' 0 8) (w.extractLsb' 8 8) (w.extractLsb' 16 8) (w.extractLsb' 24 8) = w := by
  unfold wordOfBytes
  ext i hi
  simp only [BitVec.getElem_append, BitVec.getElem_extractLsb']
  repeat' split
  all_goals (rw [BitVec.getLsbD_eq_getElem (by omega)]; congr 1; omega)

/-- A word written is the word read at its address. -/
theorem Memory.readWord_writeWord (m : Memory) (a : Nat) (w : Word) : (m.writeWord a w).readWord a = w := by
  have h (i : Nat) (hi : i < 4) :=
    Memory.readByte_writeBytes_inside m a (wordBytes w) i (by simpa [wordBytes] using hi)
  have h0 := h 0 (by omega)
  have h1 := h 1 (by omega)
  have h2 := h 2 (by omega)
  have h3 := h 3 (by omega)
  unfold Memory.readWord Memory.writeWord
  rw [show a + 0 = a by rfl] at h0
  rw [h0, h1, h2, h3]
  exact wordOfBytes_wordBytes w

/-- A word written leaves every word of another aligned place alone. -/
theorem Memory.readWord_writeWord_other (m : Memory) (a b : Nat) (w : Word) (h : b + 4 ≤ a ∨ a + 4 ≤ b) :
    (m.writeWord a w).readWord b = m.readWord b := by
  unfold Memory.readWord Memory.writeWord
  rw [Memory.readByte_writeBytes_outside, Memory.readByte_writeBytes_outside,
    Memory.readByte_writeBytes_outside, Memory.readByte_writeBytes_outside] <;>
    simp only [wordBytes_length] <;> omega

end Sys2Proof.Machine
end

