-- ==== Sys2Proof/Laws/State.lean ====
section
/-!
SUPPORT. What each named operation leaves alone: one lemma for each field of State and each update, so that
no later proof unfolds a record update.
-/

namespace Sys2Proof.Machine

open Sys2Proof

/-! ### raise -/

@[simp] theorem State.raise_pending (s : State) (c : Cause) :
    (s.raise c).pending = s.pending := rfl
@[simp] theorem State.raise_mem (s : State) (c : Cause) :
    (s.raise c).mem = s.mem := rfl
@[simp] theorem State.raise_power (s : State) (c : Cause) :
    (s.raise c).power = s.power := rfl
@[simp] theorem State.raise_bus (s : State) (c : Cause) :
    (s.raise c).bus = s.bus := rfl
@[simp] theorem State.raise_tbu (s : State) (c : Cause) :
    (s.raise c).tbu = s.tbu := rfl
@[simp] theorem State.raise_wdi (s : State) (c : Cause) :
    (s.raise c).wdi = s.wdi := rfl
@[simp] theorem State.raise_sau (s : State) (c : Cause) :
    (s.raise c).sau = s.sau := rfl
@[simp] theorem State.raise_tsu (s : State) (c : Cause) :
    (s.raise c).tsu = s.tsu := rfl
@[simp] theorem State.raise_tt (s : State) (c : Cause) :
    (s.raise c).tt = s.tt := rfl
@[simp] theorem State.raise_se (s : State) (c : Cause) :
    (s.raise c).se = s.se := rfl
@[simp] theorem State.raise_next (s : State) (c : Cause) :
    (s.raise c).next = s.next := rfl
@[simp] theorem State.raise_ab (s : State) (c : Cause) :
    (s.raise c).ab = s.ab := rfl
@[simp] theorem State.raise_sli (s : State) (c : Cause) :
    (s.raise c).sli = s.sli := rfl
@[simp] theorem State.raise_rpw (s : State) (c : Cause) :
    (s.raise c).rpw = s.rpw := rfl
@[simp] theorem State.raise_ou (s : State) (c : Cause) :
    (s.raise c).ou = s.ou := rfl
@[simp] theorem State.raise_site (s : State) (c : Cause) :
    (s.raise c).site = s.site := rfl
@[simp] theorem State.raise_lvu (s : State) (c : Cause) :
    (s.raise c).lvu = s.lvu := rfl

/-! ### put -/

@[simp] theorem State.put_pending (s : State) (base : Nat) (ws : List Word) :
    (s.put base ws).pending = s.pending := rfl
@[simp] theorem State.put_power (s : State) (base : Nat) (ws : List Word) :
    (s.put base ws).power = s.power := rfl
@[simp] theorem State.put_bus (s : State) (base : Nat) (ws : List Word) :
    (s.put base ws).bus = s.bus := rfl
@[simp] theorem State.put_tbu (s : State) (base : Nat) (ws : List Word) :
    (s.put base ws).tbu = s.tbu := rfl
@[simp] theorem State.put_wdi (s : State) (base : Nat) (ws : List Word) :
    (s.put base ws).wdi = s.wdi := rfl
@[simp] theorem State.put_sau (s : State) (base : Nat) (ws : List Word) :
    (s.put base ws).sau = s.sau := rfl
@[simp] theorem State.put_tsu (s : State) (base : Nat) (ws : List Word) :
    (s.put base ws).tsu = s.tsu := rfl
@[simp] theorem State.put_tt (s : State) (base : Nat) (ws : List Word) :
    (s.put base ws).tt = s.tt := rfl
@[simp] theorem State.put_se (s : State) (base : Nat) (ws : List Word) :
    (s.put base ws).se = s.se := rfl
@[simp] theorem State.put_next (s : State) (base : Nat) (ws : List Word) :
    (s.put base ws).next = s.next := rfl
@[simp] theorem State.put_ab (s : State) (base : Nat) (ws : List Word) :
    (s.put base ws).ab = s.ab := rfl
@[simp] theorem State.put_sli (s : State) (base : Nat) (ws : List Word) :
    (s.put base ws).sli = s.sli := rfl
@[simp] theorem State.put_rpw (s : State) (base : Nat) (ws : List Word) :
    (s.put base ws).rpw = s.rpw := rfl
@[simp] theorem State.put_ou (s : State) (base : Nat) (ws : List Word) :
    (s.put base ws).ou = s.ou := rfl
@[simp] theorem State.put_site (s : State) (base : Nat) (ws : List Word) :
    (s.put base ws).site = s.site := rfl
@[simp] theorem State.put_atu (s : State) (base : Nat) (ws : List Word) :
    (s.put base ws).atu = s.atu := rfl
@[simp] theorem State.put_lvu (s : State) (base : Nat) (ws : List Word) :
    (s.put base ws).lvu = s.lvu := rfl

/-! ### showStopLine -/

@[simp] theorem State.showStopLine_pending (s : State) :
    (s.showStopLine).pending = s.pending := rfl
@[simp] theorem State.showStopLine_power (s : State) :
    (s.showStopLine).power = s.power := rfl
@[simp] theorem State.showStopLine_bus (s : State) :
    (s.showStopLine).bus = s.bus := rfl
@[simp] theorem State.showStopLine_tbu (s : State) :
    (s.showStopLine).tbu = s.tbu := rfl
@[simp] theorem State.showStopLine_wdi (s : State) :
    (s.showStopLine).wdi = s.wdi := rfl
@[simp] theorem State.showStopLine_sau (s : State) :
    (s.showStopLine).sau = s.sau := rfl
@[simp] theorem State.showStopLine_tsu (s : State) :
    (s.showStopLine).tsu = s.tsu := rfl
@[simp] theorem State.showStopLine_tt (s : State) :
    (s.showStopLine).tt = s.tt := rfl
@[simp] theorem State.showStopLine_se (s : State) :
    (s.showStopLine).se = s.se := rfl
@[simp] theorem State.showStopLine_next (s : State) :
    (s.showStopLine).next = s.next := rfl
@[simp] theorem State.showStopLine_ab (s : State) :
    (s.showStopLine).ab = s.ab := rfl
@[simp] theorem State.showStopLine_sli (s : State) :
    (s.showStopLine).sli = s.sli := rfl
@[simp] theorem State.showStopLine_rpw (s : State) :
    (s.showStopLine).rpw = s.rpw := rfl
@[simp] theorem State.showStopLine_ou (s : State) :
    (s.showStopLine).ou = s.ou := rfl
@[simp] theorem State.showStopLine_site (s : State) :
    (s.showStopLine).site = s.site := rfl
@[simp] theorem State.showStopLine_atu (s : State) :
    (s.showStopLine).atu = s.atu := rfl
@[simp] theorem State.showStopLine_lvu (s : State) :
    (s.showStopLine).lvu = s.lvu := rfl

/-! ### showSite -/

@[simp] theorem State.showSite_pending (s : State) :
    (s.showSite).pending = s.pending := rfl
@[simp] theorem State.showSite_power (s : State) :
    (s.showSite).power = s.power := rfl
@[simp] theorem State.showSite_bus (s : State) :
    (s.showSite).bus = s.bus := rfl
@[simp] theorem State.showSite_tbu (s : State) :
    (s.showSite).tbu = s.tbu := rfl
@[simp] theorem State.showSite_wdi (s : State) :
    (s.showSite).wdi = s.wdi := rfl
@[simp] theorem State.showSite_sau (s : State) :
    (s.showSite).sau = s.sau := rfl
@[simp] theorem State.showSite_tsu (s : State) :
    (s.showSite).tsu = s.tsu := rfl
@[simp] theorem State.showSite_tt (s : State) :
    (s.showSite).tt = s.tt := rfl
@[simp] theorem State.showSite_se (s : State) :
    (s.showSite).se = s.se := rfl
@[simp] theorem State.showSite_next (s : State) :
    (s.showSite).next = s.next := rfl
@[simp] theorem State.showSite_ab (s : State) :
    (s.showSite).ab = s.ab := rfl
@[simp] theorem State.showSite_sli (s : State) :
    (s.showSite).sli = s.sli := rfl
@[simp] theorem State.showSite_rpw (s : State) :
    (s.showSite).rpw = s.rpw := rfl
@[simp] theorem State.showSite_ou (s : State) :
    (s.showSite).ou = s.ou := rfl
@[simp] theorem State.showSite_site (s : State) :
    (s.showSite).site = s.site := rfl
@[simp] theorem State.showSite_atu (s : State) :
    (s.showSite).atu = s.atu := rfl
@[simp] theorem State.showSite_lvu (s : State) :
    (s.showSite).lvu = s.lvu := rfl

/-! ### showJournal -/

@[simp] theorem State.showJournal_pending (s : State) :
    (s.showJournal).pending = s.pending := rfl
@[simp] theorem State.showJournal_power (s : State) :
    (s.showJournal).power = s.power := rfl
@[simp] theorem State.showJournal_bus (s : State) :
    (s.showJournal).bus = s.bus := rfl
@[simp] theorem State.showJournal_tbu (s : State) :
    (s.showJournal).tbu = s.tbu := rfl
@[simp] theorem State.showJournal_wdi (s : State) :
    (s.showJournal).wdi = s.wdi := rfl
@[simp] theorem State.showJournal_sau (s : State) :
    (s.showJournal).sau = s.sau := rfl
@[simp] theorem State.showJournal_tsu (s : State) :
    (s.showJournal).tsu = s.tsu := rfl
@[simp] theorem State.showJournal_tt (s : State) :
    (s.showJournal).tt = s.tt := rfl
@[simp] theorem State.showJournal_se (s : State) :
    (s.showJournal).se = s.se := rfl
@[simp] theorem State.showJournal_next (s : State) :
    (s.showJournal).next = s.next := rfl
@[simp] theorem State.showJournal_ab (s : State) :
    (s.showJournal).ab = s.ab := rfl
@[simp] theorem State.showJournal_sli (s : State) :
    (s.showJournal).sli = s.sli := rfl
@[simp] theorem State.showJournal_rpw (s : State) :
    (s.showJournal).rpw = s.rpw := rfl
@[simp] theorem State.showJournal_ou (s : State) :
    (s.showJournal).ou = s.ou := rfl
@[simp] theorem State.showJournal_site (s : State) :
    (s.showJournal).site = s.site := rfl
@[simp] theorem State.showJournal_atu (s : State) :
    (s.showJournal).atu = s.atu := rfl
@[simp] theorem State.showJournal_lvu (s : State) :
    (s.showJournal).lvu = s.lvu := rfl

/-! ### showSlot -/

@[simp] theorem State.showSlot_pending (s : State) (n : Fin 16) :
    (s.showSlot n).pending = s.pending := rfl
@[simp] theorem State.showSlot_power (s : State) (n : Fin 16) :
    (s.showSlot n).power = s.power := rfl
@[simp] theorem State.showSlot_bus (s : State) (n : Fin 16) :
    (s.showSlot n).bus = s.bus := rfl
@[simp] theorem State.showSlot_tbu (s : State) (n : Fin 16) :
    (s.showSlot n).tbu = s.tbu := rfl
@[simp] theorem State.showSlot_wdi (s : State) (n : Fin 16) :
    (s.showSlot n).wdi = s.wdi := rfl
@[simp] theorem State.showSlot_sau (s : State) (n : Fin 16) :
    (s.showSlot n).sau = s.sau := rfl
@[simp] theorem State.showSlot_tsu (s : State) (n : Fin 16) :
    (s.showSlot n).tsu = s.tsu := rfl
@[simp] theorem State.showSlot_tt (s : State) (n : Fin 16) :
    (s.showSlot n).tt = s.tt := rfl
@[simp] theorem State.showSlot_se (s : State) (n : Fin 16) :
    (s.showSlot n).se = s.se := rfl
@[simp] theorem State.showSlot_next (s : State) (n : Fin 16) :
    (s.showSlot n).next = s.next := rfl
@[simp] theorem State.showSlot_ab (s : State) (n : Fin 16) :
    (s.showSlot n).ab = s.ab := rfl
@[simp] theorem State.showSlot_sli (s : State) (n : Fin 16) :
    (s.showSlot n).sli = s.sli := rfl
@[simp] theorem State.showSlot_rpw (s : State) (n : Fin 16) :
    (s.showSlot n).rpw = s.rpw := rfl
@[simp] theorem State.showSlot_ou (s : State) (n : Fin 16) :
    (s.showSlot n).ou = s.ou := rfl
@[simp] theorem State.showSlot_site (s : State) (n : Fin 16) :
    (s.showSlot n).site = s.site := rfl
@[simp] theorem State.showSlot_atu (s : State) (n : Fin 16) :
    (s.showSlot n).atu = s.atu := rfl
@[simp] theorem State.showSlot_lvu (s : State) (n : Fin 16) :
    (s.showSlot n).lvu = s.lvu := rfl

/-! ### alterBuffer -/

@[simp] theorem State.alterBuffer_pending (s : State) (b : Fin 4) (f : Buffer → Buffer) :
    (s.alterBuffer b f).pending = s.pending := rfl
@[simp] theorem State.alterBuffer_mem (s : State) (b : Fin 4) (f : Buffer → Buffer) :
    (s.alterBuffer b f).mem = s.mem := rfl
@[simp] theorem State.alterBuffer_power (s : State) (b : Fin 4) (f : Buffer → Buffer) :
    (s.alterBuffer b f).power = s.power := rfl
@[simp] theorem State.alterBuffer_bus (s : State) (b : Fin 4) (f : Buffer → Buffer) :
    (s.alterBuffer b f).bus = s.bus := rfl
@[simp] theorem State.alterBuffer_tbu (s : State) (b : Fin 4) (f : Buffer → Buffer) :
    (s.alterBuffer b f).tbu = s.tbu := rfl
@[simp] theorem State.alterBuffer_wdi (s : State) (b : Fin 4) (f : Buffer → Buffer) :
    (s.alterBuffer b f).wdi = s.wdi := rfl
@[simp] theorem State.alterBuffer_sau (s : State) (b : Fin 4) (f : Buffer → Buffer) :
    (s.alterBuffer b f).sau = s.sau := rfl
@[simp] theorem State.alterBuffer_tsu (s : State) (b : Fin 4) (f : Buffer → Buffer) :
    (s.alterBuffer b f).tsu = s.tsu := rfl
@[simp] theorem State.alterBuffer_se (s : State) (b : Fin 4) (f : Buffer → Buffer) :
    (s.alterBuffer b f).se = s.se := rfl
@[simp] theorem State.alterBuffer_next (s : State) (b : Fin 4) (f : Buffer → Buffer) :
    (s.alterBuffer b f).next = s.next := rfl
@[simp] theorem State.alterBuffer_ab (s : State) (b : Fin 4) (f : Buffer → Buffer) :
    (s.alterBuffer b f).ab = s.ab := rfl
@[simp] theorem State.alterBuffer_sli (s : State) (b : Fin 4) (f : Buffer → Buffer) :
    (s.alterBuffer b f).sli = s.sli := rfl
@[simp] theorem State.alterBuffer_rpw (s : State) (b : Fin 4) (f : Buffer → Buffer) :
    (s.alterBuffer b f).rpw = s.rpw := rfl
@[simp] theorem State.alterBuffer_ou (s : State) (b : Fin 4) (f : Buffer → Buffer) :
    (s.alterBuffer b f).ou = s.ou := rfl
@[simp] theorem State.alterBuffer_site (s : State) (b : Fin 4) (f : Buffer → Buffer) :
    (s.alterBuffer b f).site = s.site := rfl
@[simp] theorem State.alterBuffer_atu (s : State) (b : Fin 4) (f : Buffer → Buffer) :
    (s.alterBuffer b f).atu = s.atu := rfl
@[simp] theorem State.alterBuffer_lvu (s : State) (b : Fin 4) (f : Buffer → Buffer) :
    (s.alterBuffer b f).lvu = s.lvu := rfl

/-! ### alterDetector -/

@[simp] theorem State.alterDetector_pending (s : State) (d : Det) (f : Detector → Detector) :
    (s.alterDetector d f).pending = s.pending := rfl
@[simp] theorem State.alterDetector_mem (s : State) (d : Det) (f : Detector → Detector) :
    (s.alterDetector d f).mem = s.mem := rfl
@[simp] theorem State.alterDetector_power (s : State) (d : Det) (f : Detector → Detector) :
    (s.alterDetector d f).power = s.power := rfl
@[simp] theorem State.alterDetector_bus (s : State) (d : Det) (f : Detector → Detector) :
    (s.alterDetector d f).bus = s.bus := rfl
@[simp] theorem State.alterDetector_tbu (s : State) (d : Det) (f : Detector → Detector) :
    (s.alterDetector d f).tbu = s.tbu := rfl
@[simp] theorem State.alterDetector_sau (s : State) (d : Det) (f : Detector → Detector) :
    (s.alterDetector d f).sau = s.sau := rfl
@[simp] theorem State.alterDetector_tsu (s : State) (d : Det) (f : Detector → Detector) :
    (s.alterDetector d f).tsu = s.tsu := rfl
@[simp] theorem State.alterDetector_tt (s : State) (d : Det) (f : Detector → Detector) :
    (s.alterDetector d f).tt = s.tt := rfl
@[simp] theorem State.alterDetector_se (s : State) (d : Det) (f : Detector → Detector) :
    (s.alterDetector d f).se = s.se := rfl
@[simp] theorem State.alterDetector_next (s : State) (d : Det) (f : Detector → Detector) :
    (s.alterDetector d f).next = s.next := rfl
@[simp] theorem State.alterDetector_ab (s : State) (d : Det) (f : Detector → Detector) :
    (s.alterDetector d f).ab = s.ab := rfl
@[simp] theorem State.alterDetector_sli (s : State) (d : Det) (f : Detector → Detector) :
    (s.alterDetector d f).sli = s.sli := rfl
@[simp] theorem State.alterDetector_rpw (s : State) (d : Det) (f : Detector → Detector) :
    (s.alterDetector d f).rpw = s.rpw := rfl
@[simp] theorem State.alterDetector_ou (s : State) (d : Det) (f : Detector → Detector) :
    (s.alterDetector d f).ou = s.ou := rfl
@[simp] theorem State.alterDetector_site (s : State) (d : Det) (f : Detector → Detector) :
    (s.alterDetector d f).site = s.site := rfl
@[simp] theorem State.alterDetector_atu (s : State) (d : Det) (f : Detector → Detector) :
    (s.alterDetector d f).atu = s.atu := rfl
@[simp] theorem State.alterDetector_lvu (s : State) (d : Det) (f : Detector → Detector) :
    (s.alterDetector d f).lvu = s.lvu := rfl

/-! ### alterStrain -/

@[simp] theorem State.alterStrain_pending (s : State) (i : Fin 16) (f : StrainChannel → StrainChannel) :
    (s.alterStrain i f).pending = s.pending := rfl
@[simp] theorem State.alterStrain_mem (s : State) (i : Fin 16) (f : StrainChannel → StrainChannel) :
    (s.alterStrain i f).mem = s.mem := rfl
@[simp] theorem State.alterStrain_power (s : State) (i : Fin 16) (f : StrainChannel → StrainChannel) :
    (s.alterStrain i f).power = s.power := rfl
@[simp] theorem State.alterStrain_bus (s : State) (i : Fin 16) (f : StrainChannel → StrainChannel) :
    (s.alterStrain i f).bus = s.bus := rfl
@[simp] theorem State.alterStrain_tbu (s : State) (i : Fin 16) (f : StrainChannel → StrainChannel) :
    (s.alterStrain i f).tbu = s.tbu := rfl
@[simp] theorem State.alterStrain_wdi (s : State) (i : Fin 16) (f : StrainChannel → StrainChannel) :
    (s.alterStrain i f).wdi = s.wdi := rfl
@[simp] theorem State.alterStrain_tsu (s : State) (i : Fin 16) (f : StrainChannel → StrainChannel) :
    (s.alterStrain i f).tsu = s.tsu := rfl
@[simp] theorem State.alterStrain_tt (s : State) (i : Fin 16) (f : StrainChannel → StrainChannel) :
    (s.alterStrain i f).tt = s.tt := rfl
@[simp] theorem State.alterStrain_se (s : State) (i : Fin 16) (f : StrainChannel → StrainChannel) :
    (s.alterStrain i f).se = s.se := rfl
@[simp] theorem State.alterStrain_next (s : State) (i : Fin 16) (f : StrainChannel → StrainChannel) :
    (s.alterStrain i f).next = s.next := rfl
@[simp] theorem State.alterStrain_ab (s : State) (i : Fin 16) (f : StrainChannel → StrainChannel) :
    (s.alterStrain i f).ab = s.ab := rfl
@[simp] theorem State.alterStrain_sli (s : State) (i : Fin 16) (f : StrainChannel → StrainChannel) :
    (s.alterStrain i f).sli = s.sli := rfl
@[simp] theorem State.alterStrain_rpw (s : State) (i : Fin 16) (f : StrainChannel → StrainChannel) :
    (s.alterStrain i f).rpw = s.rpw := rfl
@[simp] theorem State.alterStrain_ou (s : State) (i : Fin 16) (f : StrainChannel → StrainChannel) :
    (s.alterStrain i f).ou = s.ou := rfl
@[simp] theorem State.alterStrain_site (s : State) (i : Fin 16) (f : StrainChannel → StrainChannel) :
    (s.alterStrain i f).site = s.site := rfl
@[simp] theorem State.alterStrain_atu (s : State) (i : Fin 16) (f : StrainChannel → StrainChannel) :
    (s.alterStrain i f).atu = s.atu := rfl
@[simp] theorem State.alterStrain_lvu (s : State) (i : Fin 16) (f : StrainChannel → StrainChannel) :
    (s.alterStrain i f).lvu = s.lvu := rfl

/-! ### alterScanner -/

@[simp] theorem State.alterScanner_pending (s : State) (l : Fin 4) (f : Scanner → Scanner) :
    (s.alterScanner l f).pending = s.pending := rfl
@[simp] theorem State.alterScanner_mem (s : State) (l : Fin 4) (f : Scanner → Scanner) :
    (s.alterScanner l f).mem = s.mem := rfl
@[simp] theorem State.alterScanner_power (s : State) (l : Fin 4) (f : Scanner → Scanner) :
    (s.alterScanner l f).power = s.power := rfl
@[simp] theorem State.alterScanner_bus (s : State) (l : Fin 4) (f : Scanner → Scanner) :
    (s.alterScanner l f).bus = s.bus := rfl
@[simp] theorem State.alterScanner_tbu (s : State) (l : Fin 4) (f : Scanner → Scanner) :
    (s.alterScanner l f).tbu = s.tbu := rfl
@[simp] theorem State.alterScanner_wdi (s : State) (l : Fin 4) (f : Scanner → Scanner) :
    (s.alterScanner l f).wdi = s.wdi := rfl
@[simp] theorem State.alterScanner_sau (s : State) (l : Fin 4) (f : Scanner → Scanner) :
    (s.alterScanner l f).sau = s.sau := rfl
@[simp] theorem State.alterScanner_tt (s : State) (l : Fin 4) (f : Scanner → Scanner) :
    (s.alterScanner l f).tt = s.tt := rfl
@[simp] theorem State.alterScanner_se (s : State) (l : Fin 4) (f : Scanner → Scanner) :
    (s.alterScanner l f).se = s.se := rfl
@[simp] theorem State.alterScanner_next (s : State) (l : Fin 4) (f : Scanner → Scanner) :
    (s.alterScanner l f).next = s.next := rfl
@[simp] theorem State.alterScanner_ab (s : State) (l : Fin 4) (f : Scanner → Scanner) :
    (s.alterScanner l f).ab = s.ab := rfl
@[simp] theorem State.alterScanner_sli (s : State) (l : Fin 4) (f : Scanner → Scanner) :
    (s.alterScanner l f).sli = s.sli := rfl
@[simp] theorem State.alterScanner_rpw (s : State) (l : Fin 4) (f : Scanner → Scanner) :
    (s.alterScanner l f).rpw = s.rpw := rfl
@[simp] theorem State.alterScanner_ou (s : State) (l : Fin 4) (f : Scanner → Scanner) :
    (s.alterScanner l f).ou = s.ou := rfl
@[simp] theorem State.alterScanner_site (s : State) (l : Fin 4) (f : Scanner → Scanner) :
    (s.alterScanner l f).site = s.site := rfl
@[simp] theorem State.alterScanner_atu (s : State) (l : Fin 4) (f : Scanner → Scanner) :
    (s.alterScanner l f).atu = s.atu := rfl
@[simp] theorem State.alterScanner_lvu (s : State) (l : Fin 4) (f : Scanner → Scanner) :
    (s.alterScanner l f).lvu = s.lvu := rfl

/-! ### alterLine -/

@[simp] theorem State.alterLine_pending (s : State) (f : StopLine → StopLine) :
    (s.alterLine f).pending = s.pending := rfl
@[simp] theorem State.alterLine_power (s : State) (f : StopLine → StopLine) :
    (s.alterLine f).power = s.power := rfl
@[simp] theorem State.alterLine_bus (s : State) (f : StopLine → StopLine) :
    (s.alterLine f).bus = s.bus := rfl
@[simp] theorem State.alterLine_tbu (s : State) (f : StopLine → StopLine) :
    (s.alterLine f).tbu = s.tbu := rfl
@[simp] theorem State.alterLine_wdi (s : State) (f : StopLine → StopLine) :
    (s.alterLine f).wdi = s.wdi := rfl
@[simp] theorem State.alterLine_sau (s : State) (f : StopLine → StopLine) :
    (s.alterLine f).sau = s.sau := rfl
@[simp] theorem State.alterLine_tsu (s : State) (f : StopLine → StopLine) :
    (s.alterLine f).tsu = s.tsu := rfl
@[simp] theorem State.alterLine_tt (s : State) (f : StopLine → StopLine) :
    (s.alterLine f).tt = s.tt := rfl
@[simp] theorem State.alterLine_se (s : State) (f : StopLine → StopLine) :
    (s.alterLine f).se = s.se := rfl
@[simp] theorem State.alterLine_next (s : State) (f : StopLine → StopLine) :
    (s.alterLine f).next = s.next := rfl
@[simp] theorem State.alterLine_ab (s : State) (f : StopLine → StopLine) :
    (s.alterLine f).ab = s.ab := rfl
@[simp] theorem State.alterLine_rpw (s : State) (f : StopLine → StopLine) :
    (s.alterLine f).rpw = s.rpw := rfl
@[simp] theorem State.alterLine_ou (s : State) (f : StopLine → StopLine) :
    (s.alterLine f).ou = s.ou := rfl
@[simp] theorem State.alterLine_site (s : State) (f : StopLine → StopLine) :
    (s.alterLine f).site = s.site := rfl
@[simp] theorem State.alterLine_atu (s : State) (f : StopLine → StopLine) :
    (s.alterLine f).atu = s.atu := rfl
@[simp] theorem State.alterLine_lvu (s : State) (f : StopLine → StopLine) :
    (s.alterLine f).lvu = s.lvu := rfl

/-! ### alterReports -/

@[simp] theorem State.alterReports_pending (s : State) (f : Reports → Reports) :
    (s.alterReports f).pending = s.pending := rfl
@[simp] theorem State.alterReports_power (s : State) (f : Reports → Reports) :
    (s.alterReports f).power = s.power := rfl
@[simp] theorem State.alterReports_bus (s : State) (f : Reports → Reports) :
    (s.alterReports f).bus = s.bus := rfl
@[simp] theorem State.alterReports_tbu (s : State) (f : Reports → Reports) :
    (s.alterReports f).tbu = s.tbu := rfl
@[simp] theorem State.alterReports_wdi (s : State) (f : Reports → Reports) :
    (s.alterReports f).wdi = s.wdi := rfl
@[simp] theorem State.alterReports_sau (s : State) (f : Reports → Reports) :
    (s.alterReports f).sau = s.sau := rfl
@[simp] theorem State.alterReports_tsu (s : State) (f : Reports → Reports) :
    (s.alterReports f).tsu = s.tsu := rfl
@[simp] theorem State.alterReports_tt (s : State) (f : Reports → Reports) :
    (s.alterReports f).tt = s.tt := rfl
@[simp] theorem State.alterReports_se (s : State) (f : Reports → Reports) :
    (s.alterReports f).se = s.se := rfl
@[simp] theorem State.alterReports_next (s : State) (f : Reports → Reports) :
    (s.alterReports f).next = s.next := rfl
@[simp] theorem State.alterReports_ab (s : State) (f : Reports → Reports) :
    (s.alterReports f).ab = s.ab := rfl
@[simp] theorem State.alterReports_sli (s : State) (f : Reports → Reports) :
    (s.alterReports f).sli = s.sli := rfl
@[simp] theorem State.alterReports_ou (s : State) (f : Reports → Reports) :
    (s.alterReports f).ou = s.ou := rfl
@[simp] theorem State.alterReports_site (s : State) (f : Reports → Reports) :
    (s.alterReports f).site = s.site := rfl
@[simp] theorem State.alterReports_atu (s : State) (f : Reports → Reports) :
    (s.alterReports f).atu = s.atu := rfl
@[simp] theorem State.alterReports_lvu (s : State) (f : Reports → Reports) :
    (s.alterReports f).lvu = s.lvu := rfl

/-! ### alterSlot -/

@[simp] theorem State.alterSlot_pending (s : State) (n : Fin 16) (f : Slot → Slot) :
    (s.alterSlot n f).pending = s.pending := rfl
@[simp] theorem State.alterSlot_power (s : State) (n : Fin 16) (f : Slot → Slot) :
    (s.alterSlot n f).power = s.power := rfl
@[simp] theorem State.alterSlot_bus (s : State) (n : Fin 16) (f : Slot → Slot) :
    (s.alterSlot n f).bus = s.bus := rfl
@[simp] theorem State.alterSlot_tbu (s : State) (n : Fin 16) (f : Slot → Slot) :
    (s.alterSlot n f).tbu = s.tbu := rfl
@[simp] theorem State.alterSlot_wdi (s : State) (n : Fin 16) (f : Slot → Slot) :
    (s.alterSlot n f).wdi = s.wdi := rfl
@[simp] theorem State.alterSlot_sau (s : State) (n : Fin 16) (f : Slot → Slot) :
    (s.alterSlot n f).sau = s.sau := rfl
@[simp] theorem State.alterSlot_tsu (s : State) (n : Fin 16) (f : Slot → Slot) :
    (s.alterSlot n f).tsu = s.tsu := rfl
@[simp] theorem State.alterSlot_tt (s : State) (n : Fin 16) (f : Slot → Slot) :
    (s.alterSlot n f).tt = s.tt := rfl
@[simp] theorem State.alterSlot_se (s : State) (n : Fin 16) (f : Slot → Slot) :
    (s.alterSlot n f).se = s.se := rfl
@[simp] theorem State.alterSlot_next (s : State) (n : Fin 16) (f : Slot → Slot) :
    (s.alterSlot n f).next = s.next := rfl
@[simp] theorem State.alterSlot_ab (s : State) (n : Fin 16) (f : Slot → Slot) :
    (s.alterSlot n f).ab = s.ab := rfl
@[simp] theorem State.alterSlot_sli (s : State) (n : Fin 16) (f : Slot → Slot) :
    (s.alterSlot n f).sli = s.sli := rfl
@[simp] theorem State.alterSlot_rpw (s : State) (n : Fin 16) (f : Slot → Slot) :
    (s.alterSlot n f).rpw = s.rpw := rfl
@[simp] theorem State.alterSlot_site (s : State) (n : Fin 16) (f : Slot → Slot) :
    (s.alterSlot n f).site = s.site := rfl
@[simp] theorem State.alterSlot_atu (s : State) (n : Fin 16) (f : Slot → Slot) :
    (s.alterSlot n f).atu = s.atu := rfl
@[simp] theorem State.alterSlot_lvu (s : State) (n : Fin 16) (f : Slot → Slot) :
    (s.alterSlot n f).lvu = s.lvu := rfl

/-! ### finishSlot -/

@[simp] theorem State.finishSlot_pending (s : State) (n : Fin 16) (o : OrderOutcome) (r1 r2 : Word) :
    (s.finishSlot n o r1 r2).pending = s.pending := rfl
@[simp] theorem State.finishSlot_power (s : State) (n : Fin 16) (o : OrderOutcome) (r1 r2 : Word) :
    (s.finishSlot n o r1 r2).power = s.power := rfl
@[simp] theorem State.finishSlot_bus (s : State) (n : Fin 16) (o : OrderOutcome) (r1 r2 : Word) :
    (s.finishSlot n o r1 r2).bus = s.bus := rfl
@[simp] theorem State.finishSlot_tbu (s : State) (n : Fin 16) (o : OrderOutcome) (r1 r2 : Word) :
    (s.finishSlot n o r1 r2).tbu = s.tbu := rfl
@[simp] theorem State.finishSlot_wdi (s : State) (n : Fin 16) (o : OrderOutcome) (r1 r2 : Word) :
    (s.finishSlot n o r1 r2).wdi = s.wdi := rfl
@[simp] theorem State.finishSlot_sau (s : State) (n : Fin 16) (o : OrderOutcome) (r1 r2 : Word) :
    (s.finishSlot n o r1 r2).sau = s.sau := rfl
@[simp] theorem State.finishSlot_tsu (s : State) (n : Fin 16) (o : OrderOutcome) (r1 r2 : Word) :
    (s.finishSlot n o r1 r2).tsu = s.tsu := rfl
@[simp] theorem State.finishSlot_tt (s : State) (n : Fin 16) (o : OrderOutcome) (r1 r2 : Word) :
    (s.finishSlot n o r1 r2).tt = s.tt := rfl
@[simp] theorem State.finishSlot_se (s : State) (n : Fin 16) (o : OrderOutcome) (r1 r2 : Word) :
    (s.finishSlot n o r1 r2).se = s.se := rfl
@[simp] theorem State.finishSlot_next (s : State) (n : Fin 16) (o : OrderOutcome) (r1 r2 : Word) :
    (s.finishSlot n o r1 r2).next = s.next := rfl
@[simp] theorem State.finishSlot_ab (s : State) (n : Fin 16) (o : OrderOutcome) (r1 r2 : Word) :
    (s.finishSlot n o r1 r2).ab = s.ab := rfl
@[simp] theorem State.finishSlot_sli (s : State) (n : Fin 16) (o : OrderOutcome) (r1 r2 : Word) :
    (s.finishSlot n o r1 r2).sli = s.sli := rfl
@[simp] theorem State.finishSlot_rpw (s : State) (n : Fin 16) (o : OrderOutcome) (r1 r2 : Word) :
    (s.finishSlot n o r1 r2).rpw = s.rpw := rfl
@[simp] theorem State.finishSlot_site (s : State) (n : Fin 16) (o : OrderOutcome) (r1 r2 : Word) :
    (s.finishSlot n o r1 r2).site = s.site := rfl
@[simp] theorem State.finishSlot_lvu (s : State) (n : Fin 16) (o : OrderOutcome) (r1 r2 : Word) :
    (s.finishSlot n o r1 r2).lvu = s.lvu := rfl

/-! ### finishRunning -/

@[simp] theorem State.finishRunning_pending (s : State) (n : Fin 16) (o : OrderOutcome) (r1 r2 : Word) :
    (s.finishRunning n o r1 r2).pending = s.pending := rfl
@[simp] theorem State.finishRunning_power (s : State) (n : Fin 16) (o : OrderOutcome) (r1 r2 : Word) :
    (s.finishRunning n o r1 r2).power = s.power := rfl
@[simp] theorem State.finishRunning_bus (s : State) (n : Fin 16) (o : OrderOutcome) (r1 r2 : Word) :
    (s.finishRunning n o r1 r2).bus = s.bus := rfl
@[simp] theorem State.finishRunning_tbu (s : State) (n : Fin 16) (o : OrderOutcome) (r1 r2 : Word) :
    (s.finishRunning n o r1 r2).tbu = s.tbu := rfl
@[simp] theorem State.finishRunning_wdi (s : State) (n : Fin 16) (o : OrderOutcome) (r1 r2 : Word) :
    (s.finishRunning n o r1 r2).wdi = s.wdi := rfl
@[simp] theorem State.finishRunning_sau (s : State) (n : Fin 16) (o : OrderOutcome) (r1 r2 : Word) :
    (s.finishRunning n o r1 r2).sau = s.sau := rfl
@[simp] theorem State.finishRunning_tsu (s : State) (n : Fin 16) (o : OrderOutcome) (r1 r2 : Word) :
    (s.finishRunning n o r1 r2).tsu = s.tsu := rfl
@[simp] theorem State.finishRunning_tt (s : State) (n : Fin 16) (o : OrderOutcome) (r1 r2 : Word) :
    (s.finishRunning n o r1 r2).tt = s.tt := rfl
@[simp] theorem State.finishRunning_se (s : State) (n : Fin 16) (o : OrderOutcome) (r1 r2 : Word) :
    (s.finishRunning n o r1 r2).se = s.se := rfl
@[simp] theorem State.finishRunning_next (s : State) (n : Fin 16) (o : OrderOutcome) (r1 r2 : Word) :
    (s.finishRunning n o r1 r2).next = s.next := rfl
@[simp] theorem State.finishRunning_ab (s : State) (n : Fin 16) (o : OrderOutcome) (r1 r2 : Word) :
    (s.finishRunning n o r1 r2).ab = s.ab := rfl
@[simp] theorem State.finishRunning_sli (s : State) (n : Fin 16) (o : OrderOutcome) (r1 r2 : Word) :
    (s.finishRunning n o r1 r2).sli = s.sli := rfl
@[simp] theorem State.finishRunning_rpw (s : State) (n : Fin 16) (o : OrderOutcome) (r1 r2 : Word) :
    (s.finishRunning n o r1 r2).rpw = s.rpw := rfl
@[simp] theorem State.finishRunning_site (s : State) (n : Fin 16) (o : OrderOutcome) (r1 r2 : Word) :
    (s.finishRunning n o r1 r2).site = s.site := rfl
@[simp] theorem State.finishRunning_lvu (s : State) (n : Fin 16) (o : OrderOutcome) (r1 r2 : Word) :
    (s.finishRunning n o r1 r2).lvu = s.lvu := rfl

/-! ### finishWaiting -/

@[simp] theorem State.finishWaiting_pending (s : State) (n : Fin 16) (r2 : Word) :
    (s.finishWaiting n r2).pending = s.pending := rfl
@[simp] theorem State.finishWaiting_power (s : State) (n : Fin 16) (r2 : Word) :
    (s.finishWaiting n r2).power = s.power := rfl
@[simp] theorem State.finishWaiting_bus (s : State) (n : Fin 16) (r2 : Word) :
    (s.finishWaiting n r2).bus = s.bus := rfl
@[simp] theorem State.finishWaiting_tbu (s : State) (n : Fin 16) (r2 : Word) :
    (s.finishWaiting n r2).tbu = s.tbu := rfl
@[simp] theorem State.finishWaiting_wdi (s : State) (n : Fin 16) (r2 : Word) :
    (s.finishWaiting n r2).wdi = s.wdi := rfl
@[simp] theorem State.finishWaiting_sau (s : State) (n : Fin 16) (r2 : Word) :
    (s.finishWaiting n r2).sau = s.sau := rfl
@[simp] theorem State.finishWaiting_tsu (s : State) (n : Fin 16) (r2 : Word) :
    (s.finishWaiting n r2).tsu = s.tsu := rfl
@[simp] theorem State.finishWaiting_tt (s : State) (n : Fin 16) (r2 : Word) :
    (s.finishWaiting n r2).tt = s.tt := rfl
@[simp] theorem State.finishWaiting_se (s : State) (n : Fin 16) (r2 : Word) :
    (s.finishWaiting n r2).se = s.se := rfl
@[simp] theorem State.finishWaiting_next (s : State) (n : Fin 16) (r2 : Word) :
    (s.finishWaiting n r2).next = s.next := rfl
@[simp] theorem State.finishWaiting_ab (s : State) (n : Fin 16) (r2 : Word) :
    (s.finishWaiting n r2).ab = s.ab := rfl
@[simp] theorem State.finishWaiting_sli (s : State) (n : Fin 16) (r2 : Word) :
    (s.finishWaiting n r2).sli = s.sli := rfl
@[simp] theorem State.finishWaiting_rpw (s : State) (n : Fin 16) (r2 : Word) :
    (s.finishWaiting n r2).rpw = s.rpw := rfl
@[simp] theorem State.finishWaiting_site (s : State) (n : Fin 16) (r2 : Word) :
    (s.finishWaiting n r2).site = s.site := rfl
@[simp] theorem State.finishWaiting_lvu (s : State) (n : Fin 16) (r2 : Word) :
    (s.finishWaiting n r2).lvu = s.lvu := rfl

/-! ### park -/

@[simp] theorem State.park_pending (s : State) (n : Fin 16) (w : WaitingOrder) :
    (s.park n w).pending = s.pending := rfl
@[simp] theorem State.park_power (s : State) (n : Fin 16) (w : WaitingOrder) :
    (s.park n w).power = s.power := rfl
@[simp] theorem State.park_bus (s : State) (n : Fin 16) (w : WaitingOrder) :
    (s.park n w).bus = s.bus := rfl
@[simp] theorem State.park_tbu (s : State) (n : Fin 16) (w : WaitingOrder) :
    (s.park n w).tbu = s.tbu := rfl
@[simp] theorem State.park_wdi (s : State) (n : Fin 16) (w : WaitingOrder) :
    (s.park n w).wdi = s.wdi := rfl
@[simp] theorem State.park_sau (s : State) (n : Fin 16) (w : WaitingOrder) :
    (s.park n w).sau = s.sau := rfl
@[simp] theorem State.park_tsu (s : State) (n : Fin 16) (w : WaitingOrder) :
    (s.park n w).tsu = s.tsu := rfl
@[simp] theorem State.park_tt (s : State) (n : Fin 16) (w : WaitingOrder) :
    (s.park n w).tt = s.tt := rfl
@[simp] theorem State.park_se (s : State) (n : Fin 16) (w : WaitingOrder) :
    (s.park n w).se = s.se := rfl
@[simp] theorem State.park_next (s : State) (n : Fin 16) (w : WaitingOrder) :
    (s.park n w).next = s.next := rfl
@[simp] theorem State.park_ab (s : State) (n : Fin 16) (w : WaitingOrder) :
    (s.park n w).ab = s.ab := rfl
@[simp] theorem State.park_sli (s : State) (n : Fin 16) (w : WaitingOrder) :
    (s.park n w).sli = s.sli := rfl
@[simp] theorem State.park_rpw (s : State) (n : Fin 16) (w : WaitingOrder) :
    (s.park n w).rpw = s.rpw := rfl
@[simp] theorem State.park_site (s : State) (n : Fin 16) (w : WaitingOrder) :
    (s.park n w).site = s.site := rfl
@[simp] theorem State.park_atu (s : State) (n : Fin 16) (w : WaitingOrder) :
    (s.park n w).atu = s.atu := rfl
@[simp] theorem State.park_lvu (s : State) (n : Fin 16) (w : WaitingOrder) :
    (s.park n w).lvu = s.lvu := rfl

/-! ### mirror -/

@[simp] theorem State.mirror_pending (s : State) (p : Fin 32) :
    (s.mirror p).pending = s.pending := rfl
@[simp] theorem State.mirror_power (s : State) (p : Fin 32) :
    (s.mirror p).power = s.power := rfl
@[simp] theorem State.mirror_bus (s : State) (p : Fin 32) :
    (s.mirror p).bus = s.bus := rfl
@[simp] theorem State.mirror_tbu (s : State) (p : Fin 32) :
    (s.mirror p).tbu = s.tbu := rfl
@[simp] theorem State.mirror_wdi (s : State) (p : Fin 32) :
    (s.mirror p).wdi = s.wdi := rfl
@[simp] theorem State.mirror_sau (s : State) (p : Fin 32) :
    (s.mirror p).sau = s.sau := rfl
@[simp] theorem State.mirror_tsu (s : State) (p : Fin 32) :
    (s.mirror p).tsu = s.tsu := rfl
@[simp] theorem State.mirror_tt (s : State) (p : Fin 32) :
    (s.mirror p).tt = s.tt := rfl
@[simp] theorem State.mirror_se (s : State) (p : Fin 32) :
    (s.mirror p).se = s.se := rfl
@[simp] theorem State.mirror_next (s : State) (p : Fin 32) :
    (s.mirror p).next = s.next := rfl
@[simp] theorem State.mirror_sli (s : State) (p : Fin 32) :
    (s.mirror p).sli = s.sli := rfl
@[simp] theorem State.mirror_rpw (s : State) (p : Fin 32) :
    (s.mirror p).rpw = s.rpw := rfl
@[simp] theorem State.mirror_ou (s : State) (p : Fin 32) :
    (s.mirror p).ou = s.ou := rfl
@[simp] theorem State.mirror_site (s : State) (p : Fin 32) :
    (s.mirror p).site = s.site := rfl
@[simp] theorem State.mirror_atu (s : State) (p : Fin 32) :
    (s.mirror p).atu = s.atu := rfl
@[simp] theorem State.mirror_lvu (s : State) (p : Fin 32) :
    (s.mirror p).lvu = s.lvu := rfl

/-! ### commitEvent -/

@[simp] theorem State.commitEvent_pending (s : State) :
    (s.commitEvent).pending = s.pending := rfl
@[simp] theorem State.commitEvent_power (s : State) :
    (s.commitEvent).power = s.power := rfl
@[simp] theorem State.commitEvent_bus (s : State) :
    (s.commitEvent).bus = s.bus := rfl
@[simp] theorem State.commitEvent_tbu (s : State) :
    (s.commitEvent).tbu = s.tbu := rfl
@[simp] theorem State.commitEvent_wdi (s : State) :
    (s.commitEvent).wdi = s.wdi := rfl
@[simp] theorem State.commitEvent_sau (s : State) :
    (s.commitEvent).sau = s.sau := rfl
@[simp] theorem State.commitEvent_tsu (s : State) :
    (s.commitEvent).tsu = s.tsu := rfl
@[simp] theorem State.commitEvent_tt (s : State) :
    (s.commitEvent).tt = s.tt := rfl
@[simp] theorem State.commitEvent_se (s : State) :
    (s.commitEvent).se = s.se := rfl
@[simp] theorem State.commitEvent_next (s : State) :
    (s.commitEvent).next = s.next := rfl
@[simp] theorem State.commitEvent_ab (s : State) :
    (s.commitEvent).ab = s.ab := rfl
@[simp] theorem State.commitEvent_rpw (s : State) :
    (s.commitEvent).rpw = s.rpw := rfl
@[simp] theorem State.commitEvent_ou (s : State) :
    (s.commitEvent).ou = s.ou := rfl
@[simp] theorem State.commitEvent_site (s : State) :
    (s.commitEvent).site = s.site := rfl
@[simp] theorem State.commitEvent_atu (s : State) :
    (s.commitEvent).atu = s.atu := rfl
@[simp] theorem State.commitEvent_lvu (s : State) :
    (s.commitEvent).lvu = s.lvu := rfl

/-! ### enterTracker -/

@[simp] theorem State.enterTracker_pending (s : State) (t : Tracker) :
    (s.enterTracker t).pending = s.pending := rfl
@[simp] theorem State.enterTracker_mem (s : State) (t : Tracker) :
    (s.enterTracker t).mem = s.mem := rfl
@[simp] theorem State.enterTracker_power (s : State) (t : Tracker) :
    (s.enterTracker t).power = s.power := rfl
@[simp] theorem State.enterTracker_bus (s : State) (t : Tracker) :
    (s.enterTracker t).bus = s.bus := rfl
@[simp] theorem State.enterTracker_tbu (s : State) (t : Tracker) :
    (s.enterTracker t).tbu = s.tbu := rfl
@[simp] theorem State.enterTracker_tsu (s : State) (t : Tracker) :
    (s.enterTracker t).tsu = s.tsu := rfl
@[simp] theorem State.enterTracker_se (s : State) (t : Tracker) :
    (s.enterTracker t).se = s.se := rfl
@[simp] theorem State.enterTracker_next (s : State) (t : Tracker) :
    (s.enterTracker t).next = s.next := rfl
@[simp] theorem State.enterTracker_ab (s : State) (t : Tracker) :
    (s.enterTracker t).ab = s.ab := rfl
@[simp] theorem State.enterTracker_sli (s : State) (t : Tracker) :
    (s.enterTracker t).sli = s.sli := rfl
@[simp] theorem State.enterTracker_rpw (s : State) (t : Tracker) :
    (s.enterTracker t).rpw = s.rpw := rfl
@[simp] theorem State.enterTracker_ou (s : State) (t : Tracker) :
    (s.enterTracker t).ou = s.ou := rfl
@[simp] theorem State.enterTracker_site (s : State) (t : Tracker) :
    (s.enterTracker t).site = s.site := rfl
@[simp] theorem State.enterTracker_atu (s : State) (t : Tracker) :
    (s.enterTracker t).atu = s.atu := rfl
@[simp] theorem State.enterTracker_lvu (s : State) (t : Tracker) :
    (s.enterTracker t).lvu = s.lvu := rfl

/-! ### trainGone -/

@[simp] theorem State.trainGone_pending (s : State) :
    (s.trainGone).pending = s.pending := rfl
@[simp] theorem State.trainGone_mem (s : State) :
    (s.trainGone).mem = s.mem := rfl
@[simp] theorem State.trainGone_power (s : State) :
    (s.trainGone).power = s.power := rfl
@[simp] theorem State.trainGone_bus (s : State) :
    (s.trainGone).bus = s.bus := rfl
@[simp] theorem State.trainGone_tbu (s : State) :
    (s.trainGone).tbu = s.tbu := rfl
@[simp] theorem State.trainGone_tsu (s : State) :
    (s.trainGone).tsu = s.tsu := rfl
@[simp] theorem State.trainGone_se (s : State) :
    (s.trainGone).se = s.se := rfl
@[simp] theorem State.trainGone_next (s : State) :
    (s.trainGone).next = s.next := rfl
@[simp] theorem State.trainGone_ab (s : State) :
    (s.trainGone).ab = s.ab := rfl
@[simp] theorem State.trainGone_sli (s : State) :
    (s.trainGone).sli = s.sli := rfl
@[simp] theorem State.trainGone_rpw (s : State) :
    (s.trainGone).rpw = s.rpw := rfl
@[simp] theorem State.trainGone_ou (s : State) :
    (s.trainGone).ou = s.ou := rfl
@[simp] theorem State.trainGone_site (s : State) :
    (s.trainGone).site = s.site := rfl
@[simp] theorem State.trainGone_lvu (s : State) :
    (s.trainGone).lvu = s.lvu := rfl

/-! ### joinBuffer -/

@[simp] theorem State.joinBuffer_pending (s : State) (b : Fin 4) :
    (s.joinBuffer b).pending = s.pending := rfl
@[simp] theorem State.joinBuffer_power (s : State) (b : Fin 4) :
    (s.joinBuffer b).power = s.power := rfl
@[simp] theorem State.joinBuffer_bus (s : State) (b : Fin 4) :
    (s.joinBuffer b).bus = s.bus := rfl
@[simp] theorem State.joinBuffer_tbu (s : State) (b : Fin 4) :
    (s.joinBuffer b).tbu = s.tbu := rfl
@[simp] theorem State.joinBuffer_wdi (s : State) (b : Fin 4) :
    (s.joinBuffer b).wdi = s.wdi := rfl
@[simp] theorem State.joinBuffer_sau (s : State) (b : Fin 4) :
    (s.joinBuffer b).sau = s.sau := rfl
@[simp] theorem State.joinBuffer_tsu (s : State) (b : Fin 4) :
    (s.joinBuffer b).tsu = s.tsu := rfl
@[simp] theorem State.joinBuffer_se (s : State) (b : Fin 4) :
    (s.joinBuffer b).se = s.se := rfl
@[simp] theorem State.joinBuffer_next (s : State) (b : Fin 4) :
    (s.joinBuffer b).next = s.next := rfl
@[simp] theorem State.joinBuffer_ab (s : State) (b : Fin 4) :
    (s.joinBuffer b).ab = s.ab := rfl
@[simp] theorem State.joinBuffer_sli (s : State) (b : Fin 4) :
    (s.joinBuffer b).sli = s.sli := rfl
@[simp] theorem State.joinBuffer_ou (s : State) (b : Fin 4) :
    (s.joinBuffer b).ou = s.ou := rfl
@[simp] theorem State.joinBuffer_site (s : State) (b : Fin 4) :
    (s.joinBuffer b).site = s.site := rfl
@[simp] theorem State.joinBuffer_atu (s : State) (b : Fin 4) :
    (s.joinBuffer b).atu = s.atu := rfl
@[simp] theorem State.joinBuffer_lvu (s : State) (b : Fin 4) :
    (s.joinBuffer b).lvu = s.lvu := rfl

/-! ### joinStub -/

@[simp] theorem State.joinStub_pending (s : State) (c : CountOnly) :
    (s.joinStub c).pending = s.pending := rfl
@[simp] theorem State.joinStub_power (s : State) (c : CountOnly) :
    (s.joinStub c).power = s.power := rfl
@[simp] theorem State.joinStub_bus (s : State) (c : CountOnly) :
    (s.joinStub c).bus = s.bus := rfl
@[simp] theorem State.joinStub_tbu (s : State) (c : CountOnly) :
    (s.joinStub c).tbu = s.tbu := rfl
@[simp] theorem State.joinStub_wdi (s : State) (c : CountOnly) :
    (s.joinStub c).wdi = s.wdi := rfl
@[simp] theorem State.joinStub_sau (s : State) (c : CountOnly) :
    (s.joinStub c).sau = s.sau := rfl
@[simp] theorem State.joinStub_tsu (s : State) (c : CountOnly) :
    (s.joinStub c).tsu = s.tsu := rfl
@[simp] theorem State.joinStub_tt (s : State) (c : CountOnly) :
    (s.joinStub c).tt = s.tt := rfl
@[simp] theorem State.joinStub_se (s : State) (c : CountOnly) :
    (s.joinStub c).se = s.se := rfl
@[simp] theorem State.joinStub_next (s : State) (c : CountOnly) :
    (s.joinStub c).next = s.next := rfl
@[simp] theorem State.joinStub_ab (s : State) (c : CountOnly) :
    (s.joinStub c).ab = s.ab := rfl
@[simp] theorem State.joinStub_sli (s : State) (c : CountOnly) :
    (s.joinStub c).sli = s.sli := rfl
@[simp] theorem State.joinStub_ou (s : State) (c : CountOnly) :
    (s.joinStub c).ou = s.ou := rfl
@[simp] theorem State.joinStub_site (s : State) (c : CountOnly) :
    (s.joinStub c).site = s.site := rfl
@[simp] theorem State.joinStub_atu (s : State) (c : CountOnly) :
    (s.joinStub c).atu = s.atu := rfl
@[simp] theorem State.joinStub_lvu (s : State) (c : CountOnly) :
    (s.joinStub c).lvu = s.lvu := rfl

/-! ### halt -/

@[simp] theorem State.halt_pending (s : State) :
    (s.halt).pending = s.pending := rfl
@[simp] theorem State.halt_power (s : State) :
    (s.halt).power = s.power := rfl
@[simp] theorem State.halt_bus (s : State) :
    (s.halt).bus = s.bus := rfl
@[simp] theorem State.halt_tbu (s : State) :
    (s.halt).tbu = s.tbu := rfl
@[simp] theorem State.halt_wdi (s : State) :
    (s.halt).wdi = s.wdi := rfl
@[simp] theorem State.halt_sau (s : State) :
    (s.halt).sau = s.sau := rfl
@[simp] theorem State.halt_tsu (s : State) :
    (s.halt).tsu = s.tsu := rfl
@[simp] theorem State.halt_tt (s : State) :
    (s.halt).tt = s.tt := rfl
@[simp] theorem State.halt_se (s : State) :
    (s.halt).se = s.se := rfl
@[simp] theorem State.halt_next (s : State) :
    (s.halt).next = s.next := rfl
@[simp] theorem State.halt_ab (s : State) :
    (s.halt).ab = s.ab := rfl
@[simp] theorem State.halt_sli (s : State) :
    (s.halt).sli = s.sli := rfl
@[simp] theorem State.halt_rpw (s : State) :
    (s.halt).rpw = s.rpw := rfl
@[simp] theorem State.halt_ou (s : State) :
    (s.halt).ou = s.ou := rfl
@[simp] theorem State.halt_atu (s : State) :
    (s.halt).atu = s.atu := rfl
@[simp] theorem State.halt_lvu (s : State) :
    (s.halt).lvu = s.lvu := rfl

/-! ### completeSlots -/

@[simp] theorem State.completeSlots_pending (s : State) :
    (s.completeSlots).pending = s.pending := rfl
@[simp] theorem State.completeSlots_mem (s : State) :
    (s.completeSlots).mem = s.mem := rfl
@[simp] theorem State.completeSlots_power (s : State) :
    (s.completeSlots).power = s.power := rfl
@[simp] theorem State.completeSlots_bus (s : State) :
    (s.completeSlots).bus = s.bus := rfl
@[simp] theorem State.completeSlots_tbu (s : State) :
    (s.completeSlots).tbu = s.tbu := rfl
@[simp] theorem State.completeSlots_wdi (s : State) :
    (s.completeSlots).wdi = s.wdi := rfl
@[simp] theorem State.completeSlots_sau (s : State) :
    (s.completeSlots).sau = s.sau := rfl
@[simp] theorem State.completeSlots_tt (s : State) :
    (s.completeSlots).tt = s.tt := rfl
@[simp] theorem State.completeSlots_se (s : State) :
    (s.completeSlots).se = s.se := rfl
@[simp] theorem State.completeSlots_next (s : State) :
    (s.completeSlots).next = s.next := rfl
@[simp] theorem State.completeSlots_ab (s : State) :
    (s.completeSlots).ab = s.ab := rfl
@[simp] theorem State.completeSlots_sli (s : State) :
    (s.completeSlots).sli = s.sli := rfl
@[simp] theorem State.completeSlots_rpw (s : State) :
    (s.completeSlots).rpw = s.rpw := rfl
@[simp] theorem State.completeSlots_ou (s : State) :
    (s.completeSlots).ou = s.ou := rfl
@[simp] theorem State.completeSlots_site (s : State) :
    (s.completeSlots).site = s.site := rfl
@[simp] theorem State.completeSlots_atu (s : State) :
    (s.completeSlots).atu = s.atu := rfl
@[simp] theorem State.completeSlots_lvu (s : State) :
    (s.completeSlots).lvu = s.lvu := rfl

/-! ### refresh -/

@[simp] theorem State.refresh_pending (s : State) :
    (s.refresh).pending = s.pending := rfl
@[simp] theorem State.refresh_power (s : State) :
    (s.refresh).power = s.power := rfl
@[simp] theorem State.refresh_bus (s : State) :
    (s.refresh).bus = s.bus := rfl
@[simp] theorem State.refresh_tbu (s : State) :
    (s.refresh).tbu = s.tbu := rfl
@[simp] theorem State.refresh_wdi (s : State) :
    (s.refresh).wdi = s.wdi := rfl
@[simp] theorem State.refresh_sau (s : State) :
    (s.refresh).sau = s.sau := rfl
@[simp] theorem State.refresh_tsu (s : State) :
    (s.refresh).tsu = s.tsu := rfl
@[simp] theorem State.refresh_tt (s : State) :
    (s.refresh).tt = s.tt := rfl
@[simp] theorem State.refresh_se (s : State) :
    (s.refresh).se = s.se := rfl
@[simp] theorem State.refresh_next (s : State) :
    (s.refresh).next = s.next := rfl
@[simp] theorem State.refresh_ab (s : State) :
    (s.refresh).ab = s.ab := rfl
@[simp] theorem State.refresh_sli (s : State) :
    (s.refresh).sli = s.sli := rfl
@[simp] theorem State.refresh_rpw (s : State) :
    (s.refresh).rpw = s.rpw := rfl
@[simp] theorem State.refresh_ou (s : State) :
    (s.refresh).ou = s.ou := rfl
@[simp] theorem State.refresh_site (s : State) :
    (s.refresh).site = s.site := rfl
@[simp] theorem State.refresh_atu (s : State) :
    (s.refresh).atu = s.atu := rfl

/-! ### advance -/

@[simp] theorem State.advance_pending (s : State) (now : Cycle) :
    (s.advance now).pending = s.pending := by unfold State.advance; simp only []; split <;> rfl
@[simp] theorem State.advance_mem (s : State) (now : Cycle) :
    (s.advance now).mem = s.mem := by unfold State.advance; simp only []; split <;> rfl
@[simp] theorem State.advance_power (s : State) (now : Cycle) :
    (s.advance now).power = s.power := by unfold State.advance; simp only []; split <;> rfl
@[simp] theorem State.advance_bus (s : State) (now : Cycle) :
    (s.advance now).bus = s.bus := by unfold State.advance; simp only []; split <;> rfl
@[simp] theorem State.advance_wdi (s : State) (now : Cycle) :
    (s.advance now).wdi = s.wdi := by unfold State.advance; simp only []; split <;> rfl
@[simp] theorem State.advance_sau (s : State) (now : Cycle) :
    (s.advance now).sau = s.sau := by unfold State.advance; simp only []; split <;> rfl
@[simp] theorem State.advance_tsu (s : State) (now : Cycle) :
    (s.advance now).tsu = s.tsu := by unfold State.advance; simp only []; split <;> rfl
@[simp] theorem State.advance_tt (s : State) (now : Cycle) :
    (s.advance now).tt = s.tt := by unfold State.advance; simp only []; split <;> rfl
@[simp] theorem State.advance_se (s : State) (now : Cycle) :
    (s.advance now).se = s.se := by unfold State.advance; simp only []; split <;> rfl
@[simp] theorem State.advance_next (s : State) (now : Cycle) :
    (s.advance now).next = s.next := by unfold State.advance; simp only []; split <;> rfl
@[simp] theorem State.advance_ab (s : State) (now : Cycle) :
    (s.advance now).ab = s.ab := by unfold State.advance; simp only []; split <;> rfl
@[simp] theorem State.advance_sli (s : State) (now : Cycle) :
    (s.advance now).sli = s.sli := by unfold State.advance; simp only []; split <;> rfl
@[simp] theorem State.advance_rpw (s : State) (now : Cycle) :
    (s.advance now).rpw = s.rpw := by unfold State.advance; simp only []; split <;> rfl
@[simp] theorem State.advance_ou (s : State) (now : Cycle) :
    (s.advance now).ou = s.ou := by unfold State.advance; simp only []; split <;> rfl
@[simp] theorem State.advance_site (s : State) (now : Cycle) :
    (s.advance now).site = s.site := by unfold State.advance; simp only []; split <;> rfl
@[simp] theorem State.advance_atu (s : State) (now : Cycle) :
    (s.advance now).atu = s.atu := by unfold State.advance; simp only []; split <;> rfl
@[simp] theorem State.advance_lvu (s : State) (now : Cycle) :
    (s.advance now).lvu = s.lvu := by unfold State.advance; simp only []; split <;> rfl

/-! ### alterOpen -/

@[simp] theorem State.alterOpen_pending (s : State) (f : TrainRecord → TrainRecord) :
    (s.alterOpen f).pending = s.pending := by unfold State.alterOpen; split <;> rfl
@[simp] theorem State.alterOpen_mem (s : State) (f : TrainRecord → TrainRecord) :
    (s.alterOpen f).mem = s.mem := by unfold State.alterOpen; split <;> rfl
@[simp] theorem State.alterOpen_power (s : State) (f : TrainRecord → TrainRecord) :
    (s.alterOpen f).power = s.power := by unfold State.alterOpen; split <;> rfl
@[simp] theorem State.alterOpen_bus (s : State) (f : TrainRecord → TrainRecord) :
    (s.alterOpen f).bus = s.bus := by unfold State.alterOpen; split <;> rfl
@[simp] theorem State.alterOpen_tbu (s : State) (f : TrainRecord → TrainRecord) :
    (s.alterOpen f).tbu = s.tbu := by unfold State.alterOpen; split <;> rfl
@[simp] theorem State.alterOpen_wdi (s : State) (f : TrainRecord → TrainRecord) :
    (s.alterOpen f).wdi = s.wdi := by unfold State.alterOpen; split <;> rfl
@[simp] theorem State.alterOpen_sau (s : State) (f : TrainRecord → TrainRecord) :
    (s.alterOpen f).sau = s.sau := by unfold State.alterOpen; split <;> rfl
@[simp] theorem State.alterOpen_tsu (s : State) (f : TrainRecord → TrainRecord) :
    (s.alterOpen f).tsu = s.tsu := by unfold State.alterOpen; split <;> rfl
@[simp] theorem State.alterOpen_se (s : State) (f : TrainRecord → TrainRecord) :
    (s.alterOpen f).se = s.se := by unfold State.alterOpen; split <;> rfl
@[simp] theorem State.alterOpen_next (s : State) (f : TrainRecord → TrainRecord) :
    (s.alterOpen f).next = s.next := by unfold State.alterOpen; split <;> rfl
@[simp] theorem State.alterOpen_ab (s : State) (f : TrainRecord → TrainRecord) :
    (s.alterOpen f).ab = s.ab := by unfold State.alterOpen; split <;> rfl
@[simp] theorem State.alterOpen_sli (s : State) (f : TrainRecord → TrainRecord) :
    (s.alterOpen f).sli = s.sli := by unfold State.alterOpen; split <;> rfl
@[simp] theorem State.alterOpen_rpw (s : State) (f : TrainRecord → TrainRecord) :
    (s.alterOpen f).rpw = s.rpw := by unfold State.alterOpen; split <;> rfl
@[simp] theorem State.alterOpen_ou (s : State) (f : TrainRecord → TrainRecord) :
    (s.alterOpen f).ou = s.ou := by unfold State.alterOpen; split <;> rfl
@[simp] theorem State.alterOpen_site (s : State) (f : TrainRecord → TrainRecord) :
    (s.alterOpen f).site = s.site := by unfold State.alterOpen; split <;> rfl
@[simp] theorem State.alterOpen_atu (s : State) (f : TrainRecord → TrainRecord) :
    (s.alterOpen f).atu = s.atu := by unfold State.alterOpen; split <;> rfl
@[simp] theorem State.alterOpen_lvu (s : State) (f : TrainRecord → TrainRecord) :
    (s.alterOpen f).lvu = s.lvu := by unfold State.alterOpen; split <;> rfl

/-! ### markSensorFault -/

@[simp] theorem State.markSensorFault_pending (s : State) :
    (s.markSensorFault).pending = s.pending := by simp [State.markSensorFault]
@[simp] theorem State.markSensorFault_mem (s : State) :
    (s.markSensorFault).mem = s.mem := by simp [State.markSensorFault]
@[simp] theorem State.markSensorFault_power (s : State) :
    (s.markSensorFault).power = s.power := by simp [State.markSensorFault]
@[simp] theorem State.markSensorFault_bus (s : State) :
    (s.markSensorFault).bus = s.bus := by simp [State.markSensorFault]
@[simp] theorem State.markSensorFault_tbu (s : State) :
    (s.markSensorFault).tbu = s.tbu := by simp [State.markSensorFault]
@[simp] theorem State.markSensorFault_wdi (s : State) :
    (s.markSensorFault).wdi = s.wdi := by simp [State.markSensorFault]
@[simp] theorem State.markSensorFault_sau (s : State) :
    (s.markSensorFault).sau = s.sau := by simp [State.markSensorFault]
@[simp] theorem State.markSensorFault_tsu (s : State) :
    (s.markSensorFault).tsu = s.tsu := by simp [State.markSensorFault]
@[simp] theorem State.markSensorFault_se (s : State) :
    (s.markSensorFault).se = s.se := by simp [State.markSensorFault]
@[simp] theorem State.markSensorFault_next (s : State) :
    (s.markSensorFault).next = s.next := by simp [State.markSensorFault]
@[simp] theorem State.markSensorFault_ab (s : State) :
    (s.markSensorFault).ab = s.ab := by simp [State.markSensorFault]
@[simp] theorem State.markSensorFault_sli (s : State) :
    (s.markSensorFault).sli = s.sli := by simp [State.markSensorFault]
@[simp] theorem State.markSensorFault_rpw (s : State) :
    (s.markSensorFault).rpw = s.rpw := by simp [State.markSensorFault]
@[simp] theorem State.markSensorFault_ou (s : State) :
    (s.markSensorFault).ou = s.ou := by simp [State.markSensorFault]
@[simp] theorem State.markSensorFault_site (s : State) :
    (s.markSensorFault).site = s.site := by simp [State.markSensorFault]
@[simp] theorem State.markSensorFault_atu (s : State) :
    (s.markSensorFault).atu = s.atu := by simp [State.markSensorFault]
@[simp] theorem State.markSensorFault_lvu (s : State) :
    (s.markSensorFault).lvu = s.lvu := by simp [State.markSensorFault]

/-! ### markUntrimmed -/

@[simp] theorem State.markUntrimmed_pending (s : State) :
    (s.markUntrimmed).pending = s.pending := by simp [State.markUntrimmed]
@[simp] theorem State.markUntrimmed_mem (s : State) :
    (s.markUntrimmed).mem = s.mem := by simp [State.markUntrimmed]
@[simp] theorem State.markUntrimmed_power (s : State) :
    (s.markUntrimmed).power = s.power := by simp [State.markUntrimmed]
@[simp] theorem State.markUntrimmed_bus (s : State) :
    (s.markUntrimmed).bus = s.bus := by simp [State.markUntrimmed]
@[simp] theorem State.markUntrimmed_tbu (s : State) :
    (s.markUntrimmed).tbu = s.tbu := by simp [State.markUntrimmed]
@[simp] theorem State.markUntrimmed_wdi (s : State) :
    (s.markUntrimmed).wdi = s.wdi := by simp [State.markUntrimmed]
@[simp] theorem State.markUntrimmed_sau (s : State) :
    (s.markUntrimmed).sau = s.sau := by simp [State.markUntrimmed]
@[simp] theorem State.markUntrimmed_tsu (s : State) :
    (s.markUntrimmed).tsu = s.tsu := by simp [State.markUntrimmed]
@[simp] theorem State.markUntrimmed_se (s : State) :
    (s.markUntrimmed).se = s.se := by simp [State.markUntrimmed]
@[simp] theorem State.markUntrimmed_next (s : State) :
    (s.markUntrimmed).next = s.next := by simp [State.markUntrimmed]
@[simp] theorem State.markUntrimmed_ab (s : State) :
    (s.markUntrimmed).ab = s.ab := by simp [State.markUntrimmed]
@[simp] theorem State.markUntrimmed_sli (s : State) :
    (s.markUntrimmed).sli = s.sli := by simp [State.markUntrimmed]
@[simp] theorem State.markUntrimmed_rpw (s : State) :
    (s.markUntrimmed).rpw = s.rpw := by simp [State.markUntrimmed]
@[simp] theorem State.markUntrimmed_ou (s : State) :
    (s.markUntrimmed).ou = s.ou := by simp [State.markUntrimmed]
@[simp] theorem State.markUntrimmed_site (s : State) :
    (s.markUntrimmed).site = s.site := by simp [State.markUntrimmed]
@[simp] theorem State.markUntrimmed_atu (s : State) :
    (s.markUntrimmed).atu = s.atu := by simp [State.markUntrimmed]
@[simp] theorem State.markUntrimmed_lvu (s : State) :
    (s.markUntrimmed).lvu = s.lvu := by simp [State.markUntrimmed]

/-! ### faultEntered -/

@[simp] theorem State.faultEntered_pending (s : State) :
    (s.faultEntered).pending = s.pending := by simp [State.faultEntered]
@[simp] theorem State.faultEntered_mem (s : State) :
    (s.faultEntered).mem = s.mem := by simp [State.faultEntered]
@[simp] theorem State.faultEntered_power (s : State) :
    (s.faultEntered).power = s.power := by simp [State.faultEntered]
@[simp] theorem State.faultEntered_bus (s : State) :
    (s.faultEntered).bus = s.bus := by simp [State.faultEntered]
@[simp] theorem State.faultEntered_tbu (s : State) :
    (s.faultEntered).tbu = s.tbu := by simp [State.faultEntered]
@[simp] theorem State.faultEntered_wdi (s : State) :
    (s.faultEntered).wdi = s.wdi := by simp [State.faultEntered]
@[simp] theorem State.faultEntered_sau (s : State) :
    (s.faultEntered).sau = s.sau := by simp [State.faultEntered]
@[simp] theorem State.faultEntered_tsu (s : State) :
    (s.faultEntered).tsu = s.tsu := by simp [State.faultEntered]
@[simp] theorem State.faultEntered_se (s : State) :
    (s.faultEntered).se = s.se := by simp [State.faultEntered]
@[simp] theorem State.faultEntered_next (s : State) :
    (s.faultEntered).next = s.next := by simp [State.faultEntered]
@[simp] theorem State.faultEntered_ab (s : State) :
    (s.faultEntered).ab = s.ab := by simp [State.faultEntered]
@[simp] theorem State.faultEntered_sli (s : State) :
    (s.faultEntered).sli = s.sli := by simp [State.faultEntered]
@[simp] theorem State.faultEntered_rpw (s : State) :
    (s.faultEntered).rpw = s.rpw := by simp [State.faultEntered]
@[simp] theorem State.faultEntered_ou (s : State) :
    (s.faultEntered).ou = s.ou := by simp [State.faultEntered]
@[simp] theorem State.faultEntered_site (s : State) :
    (s.faultEntered).site = s.site := by simp [State.faultEntered]
@[simp] theorem State.faultEntered_lvu (s : State) :
    (s.faultEntered).lvu = s.lvu := by simp [State.faultEntered]

/-! ### alterEntry -/

@[simp] theorem State.alterEntry_pending (s : State) (train : Word) (axle : Nat) (f : AxleEntry → AxleEntry) :
    (s.alterEntry train axle f).pending = s.pending := by unfold State.alterEntry; split <;> rfl
@[simp] theorem State.alterEntry_mem (s : State) (train : Word) (axle : Nat) (f : AxleEntry → AxleEntry) :
    (s.alterEntry train axle f).mem = s.mem := by unfold State.alterEntry; split <;> rfl
@[simp] theorem State.alterEntry_power (s : State) (train : Word) (axle : Nat) (f : AxleEntry → AxleEntry) :
    (s.alterEntry train axle f).power = s.power := by unfold State.alterEntry; split <;> rfl
@[simp] theorem State.alterEntry_bus (s : State) (train : Word) (axle : Nat) (f : AxleEntry → AxleEntry) :
    (s.alterEntry train axle f).bus = s.bus := by unfold State.alterEntry; split <;> rfl
@[simp] theorem State.alterEntry_tbu (s : State) (train : Word) (axle : Nat) (f : AxleEntry → AxleEntry) :
    (s.alterEntry train axle f).tbu = s.tbu := by unfold State.alterEntry; split <;> rfl
@[simp] theorem State.alterEntry_wdi (s : State) (train : Word) (axle : Nat) (f : AxleEntry → AxleEntry) :
    (s.alterEntry train axle f).wdi = s.wdi := by unfold State.alterEntry; split <;> rfl
@[simp] theorem State.alterEntry_sau (s : State) (train : Word) (axle : Nat) (f : AxleEntry → AxleEntry) :
    (s.alterEntry train axle f).sau = s.sau := by unfold State.alterEntry; split <;> rfl
@[simp] theorem State.alterEntry_tsu (s : State) (train : Word) (axle : Nat) (f : AxleEntry → AxleEntry) :
    (s.alterEntry train axle f).tsu = s.tsu := by unfold State.alterEntry; split <;> rfl
@[simp] theorem State.alterEntry_se (s : State) (train : Word) (axle : Nat) (f : AxleEntry → AxleEntry) :
    (s.alterEntry train axle f).se = s.se := by unfold State.alterEntry; split <;> rfl
@[simp] theorem State.alterEntry_next (s : State) (train : Word) (axle : Nat) (f : AxleEntry → AxleEntry) :
    (s.alterEntry train axle f).next = s.next := by unfold State.alterEntry; split <;> rfl
@[simp] theorem State.alterEntry_ab (s : State) (train : Word) (axle : Nat) (f : AxleEntry → AxleEntry) :
    (s.alterEntry train axle f).ab = s.ab := by unfold State.alterEntry; split <;> rfl
@[simp] theorem State.alterEntry_sli (s : State) (train : Word) (axle : Nat) (f : AxleEntry → AxleEntry) :
    (s.alterEntry train axle f).sli = s.sli := by unfold State.alterEntry; split <;> rfl
@[simp] theorem State.alterEntry_rpw (s : State) (train : Word) (axle : Nat) (f : AxleEntry → AxleEntry) :
    (s.alterEntry train axle f).rpw = s.rpw := by unfold State.alterEntry; split <;> rfl
@[simp] theorem State.alterEntry_ou (s : State) (train : Word) (axle : Nat) (f : AxleEntry → AxleEntry) :
    (s.alterEntry train axle f).ou = s.ou := by unfold State.alterEntry; split <;> rfl
@[simp] theorem State.alterEntry_site (s : State) (train : Word) (axle : Nat) (f : AxleEntry → AxleEntry) :
    (s.alterEntry train axle f).site = s.site := by unfold State.alterEntry; split <;> rfl
@[simp] theorem State.alterEntry_atu (s : State) (train : Word) (axle : Nat) (f : AxleEntry → AxleEntry) :
    (s.alterEntry train axle f).atu = s.atu := by unfold State.alterEntry; split <;> rfl
@[simp] theorem State.alterEntry_lvu (s : State) (train : Word) (axle : Nat) (f : AxleEntry → AxleEntry) :
    (s.alterEntry train axle f).lvu = s.lvu := by unfold State.alterEntry; split <;> rfl

/-! ### handDemand -/

@[simp] theorem State.handDemand_pending (s : State) :
    (s.handDemand).pending = s.pending := by unfold State.handDemand; split <;> rfl
@[simp] theorem State.handDemand_power (s : State) :
    (s.handDemand).power = s.power := by unfold State.handDemand; split <;> rfl
@[simp] theorem State.handDemand_bus (s : State) :
    (s.handDemand).bus = s.bus := by unfold State.handDemand; split <;> rfl
@[simp] theorem State.handDemand_tbu (s : State) :
    (s.handDemand).tbu = s.tbu := by unfold State.handDemand; split <;> rfl
@[simp] theorem State.handDemand_wdi (s : State) :
    (s.handDemand).wdi = s.wdi := by unfold State.handDemand; split <;> rfl
@[simp] theorem State.handDemand_sau (s : State) :
    (s.handDemand).sau = s.sau := by unfold State.handDemand; split <;> rfl
@[simp] theorem State.handDemand_tsu (s : State) :
    (s.handDemand).tsu = s.tsu := by unfold State.handDemand; split <;> rfl
@[simp] theorem State.handDemand_tt (s : State) :
    (s.handDemand).tt = s.tt := by unfold State.handDemand; split <;> rfl
@[simp] theorem State.handDemand_se (s : State) :
    (s.handDemand).se = s.se := by unfold State.handDemand; split <;> rfl
@[simp] theorem State.handDemand_next (s : State) :
    (s.handDemand).next = s.next := by unfold State.handDemand; split <;> rfl
@[simp] theorem State.handDemand_ab (s : State) :
    (s.handDemand).ab = s.ab := by unfold State.handDemand; split <;> rfl
@[simp] theorem State.handDemand_rpw (s : State) :
    (s.handDemand).rpw = s.rpw := by unfold State.handDemand; split <;> rfl
@[simp] theorem State.handDemand_ou (s : State) :
    (s.handDemand).ou = s.ou := by unfold State.handDemand; split <;> rfl
@[simp] theorem State.handDemand_site (s : State) :
    (s.handDemand).site = s.site := by unfold State.handDemand; split <;> rfl
@[simp] theorem State.handDemand_atu (s : State) :
    (s.handDemand).atu = s.atu := by unfold State.handDemand; split <;> rfl
@[simp] theorem State.handDemand_lvu (s : State) :
    (s.handDemand).lvu = s.lvu := by unfold State.handDemand; split <;> rfl

/-! ### putRecord -/

@[simp] theorem State.putRecord_pending (s : State) (p : Fin 32) (r : AlarmRecord) :
    (s.putRecord p r).pending = s.pending := by unfold State.putRecord; simp only []; (repeat' split) <;> simp
@[simp] theorem State.putRecord_power (s : State) (p : Fin 32) (r : AlarmRecord) :
    (s.putRecord p r).power = s.power := by unfold State.putRecord; simp only []; (repeat' split) <;> simp
@[simp] theorem State.putRecord_bus (s : State) (p : Fin 32) (r : AlarmRecord) :
    (s.putRecord p r).bus = s.bus := by unfold State.putRecord; simp only []; (repeat' split) <;> simp
@[simp] theorem State.putRecord_tbu (s : State) (p : Fin 32) (r : AlarmRecord) :
    (s.putRecord p r).tbu = s.tbu := by unfold State.putRecord; simp only []; (repeat' split) <;> simp
@[simp] theorem State.putRecord_wdi (s : State) (p : Fin 32) (r : AlarmRecord) :
    (s.putRecord p r).wdi = s.wdi := by unfold State.putRecord; simp only []; (repeat' split) <;> simp
@[simp] theorem State.putRecord_sau (s : State) (p : Fin 32) (r : AlarmRecord) :
    (s.putRecord p r).sau = s.sau := by unfold State.putRecord; simp only []; (repeat' split) <;> simp
@[simp] theorem State.putRecord_tsu (s : State) (p : Fin 32) (r : AlarmRecord) :
    (s.putRecord p r).tsu = s.tsu := by unfold State.putRecord; simp only []; (repeat' split) <;> simp
@[simp] theorem State.putRecord_tt (s : State) (p : Fin 32) (r : AlarmRecord) :
    (s.putRecord p r).tt = s.tt := by unfold State.putRecord; simp only []; (repeat' split) <;> simp
@[simp] theorem State.putRecord_se (s : State) (p : Fin 32) (r : AlarmRecord) :
    (s.putRecord p r).se = s.se := by unfold State.putRecord; simp only []; (repeat' split) <;> simp
@[simp] theorem State.putRecord_next (s : State) (p : Fin 32) (r : AlarmRecord) :
    (s.putRecord p r).next = s.next := by unfold State.putRecord; simp only []; (repeat' split) <;> simp
@[simp] theorem State.putRecord_rpw (s : State) (p : Fin 32) (r : AlarmRecord) :
    (s.putRecord p r).rpw = s.rpw := by unfold State.putRecord; simp only []; (repeat' split) <;> simp
@[simp] theorem State.putRecord_ou (s : State) (p : Fin 32) (r : AlarmRecord) :
    (s.putRecord p r).ou = s.ou := by unfold State.putRecord; simp only []; (repeat' split) <;> simp
@[simp] theorem State.putRecord_site (s : State) (p : Fin 32) (r : AlarmRecord) :
    (s.putRecord p r).site = s.site := by unfold State.putRecord; simp only []; (repeat' split) <;> simp
@[simp] theorem State.putRecord_lvu (s : State) (p : Fin 32) (r : AlarmRecord) :
    (s.putRecord p r).lvu = s.lvu := by unfold State.putRecord; simp only []; (repeat' split) <;> simp

/-! ### expire -/

@[simp] theorem State.expire_pending (s : State) (p : Fin 32) :
    (s.expire p).pending = s.pending := by unfold State.expire; (repeat' split) <;> simp
@[simp] theorem State.expire_power (s : State) (p : Fin 32) :
    (s.expire p).power = s.power := by unfold State.expire; (repeat' split) <;> simp
@[simp] theorem State.expire_bus (s : State) (p : Fin 32) :
    (s.expire p).bus = s.bus := by unfold State.expire; (repeat' split) <;> simp
@[simp] theorem State.expire_tbu (s : State) (p : Fin 32) :
    (s.expire p).tbu = s.tbu := by unfold State.expire; (repeat' split) <;> simp
@[simp] theorem State.expire_wdi (s : State) (p : Fin 32) :
    (s.expire p).wdi = s.wdi := by unfold State.expire; (repeat' split) <;> simp
@[simp] theorem State.expire_sau (s : State) (p : Fin 32) :
    (s.expire p).sau = s.sau := by unfold State.expire; (repeat' split) <;> simp
@[simp] theorem State.expire_tsu (s : State) (p : Fin 32) :
    (s.expire p).tsu = s.tsu := by unfold State.expire; (repeat' split) <;> simp
@[simp] theorem State.expire_tt (s : State) (p : Fin 32) :
    (s.expire p).tt = s.tt := by unfold State.expire; (repeat' split) <;> simp
@[simp] theorem State.expire_se (s : State) (p : Fin 32) :
    (s.expire p).se = s.se := by unfold State.expire; (repeat' split) <;> simp
@[simp] theorem State.expire_next (s : State) (p : Fin 32) :
    (s.expire p).next = s.next := by unfold State.expire; (repeat' split) <;> simp
@[simp] theorem State.expire_rpw (s : State) (p : Fin 32) :
    (s.expire p).rpw = s.rpw := by unfold State.expire; (repeat' split) <;> simp
@[simp] theorem State.expire_ou (s : State) (p : Fin 32) :
    (s.expire p).ou = s.ou := by unfold State.expire; (repeat' split) <;> simp
@[simp] theorem State.expire_site (s : State) (p : Fin 32) :
    (s.expire p).site = s.site := by unfold State.expire; (repeat' split) <;> simp
@[simp] theorem State.expire_lvu (s : State) (p : Fin 32) :
    (s.expire p).lvu = s.lvu := by unfold State.expire; (repeat' split) <;> simp

/-! ### takePost -/

@[simp] theorem State.takePost_pending (s : State) (n : Fin 16) (v : Word) :
    (s.takePost n v).pending = s.pending := by unfold State.takePost; split <;> rfl
@[simp] theorem State.takePost_power (s : State) (n : Fin 16) (v : Word) :
    (s.takePost n v).power = s.power := by unfold State.takePost; split <;> rfl
@[simp] theorem State.takePost_bus (s : State) (n : Fin 16) (v : Word) :
    (s.takePost n v).bus = s.bus := by unfold State.takePost; split <;> rfl
@[simp] theorem State.takePost_tbu (s : State) (n : Fin 16) (v : Word) :
    (s.takePost n v).tbu = s.tbu := by unfold State.takePost; split <;> rfl
@[simp] theorem State.takePost_wdi (s : State) (n : Fin 16) (v : Word) :
    (s.takePost n v).wdi = s.wdi := by unfold State.takePost; split <;> rfl
@[simp] theorem State.takePost_sau (s : State) (n : Fin 16) (v : Word) :
    (s.takePost n v).sau = s.sau := by unfold State.takePost; split <;> rfl
@[simp] theorem State.takePost_tsu (s : State) (n : Fin 16) (v : Word) :
    (s.takePost n v).tsu = s.tsu := by unfold State.takePost; split <;> rfl
@[simp] theorem State.takePost_tt (s : State) (n : Fin 16) (v : Word) :
    (s.takePost n v).tt = s.tt := by unfold State.takePost; split <;> rfl
@[simp] theorem State.takePost_se (s : State) (n : Fin 16) (v : Word) :
    (s.takePost n v).se = s.se := by unfold State.takePost; split <;> rfl
@[simp] theorem State.takePost_next (s : State) (n : Fin 16) (v : Word) :
    (s.takePost n v).next = s.next := by unfold State.takePost; split <;> rfl
@[simp] theorem State.takePost_ab (s : State) (n : Fin 16) (v : Word) :
    (s.takePost n v).ab = s.ab := by unfold State.takePost; split <;> rfl
@[simp] theorem State.takePost_sli (s : State) (n : Fin 16) (v : Word) :
    (s.takePost n v).sli = s.sli := by unfold State.takePost; split <;> rfl
@[simp] theorem State.takePost_rpw (s : State) (n : Fin 16) (v : Word) :
    (s.takePost n v).rpw = s.rpw := by unfold State.takePost; split <;> rfl
@[simp] theorem State.takePost_site (s : State) (n : Fin 16) (v : Word) :
    (s.takePost n v).site = s.site := by unfold State.takePost; split <;> rfl
@[simp] theorem State.takePost_atu (s : State) (n : Fin 16) (v : Word) :
    (s.takePost n v).atu = s.atu := by unfold State.takePost; split <;> rfl
@[simp] theorem State.takePost_lvu (s : State) (n : Fin 16) (v : Word) :
    (s.takePost n v).lvu = s.lvu := by unfold State.takePost; split <;> rfl

/-! ### takeOrder -/

@[simp] theorem State.takeOrder_pending (s : State) :
    (s.takeOrder).pending = s.pending := by unfold State.takeOrder; split <;> rfl
@[simp] theorem State.takeOrder_power (s : State) :
    (s.takeOrder).power = s.power := by unfold State.takeOrder; split <;> rfl
@[simp] theorem State.takeOrder_bus (s : State) :
    (s.takeOrder).bus = s.bus := by unfold State.takeOrder; split <;> rfl
@[simp] theorem State.takeOrder_tbu (s : State) :
    (s.takeOrder).tbu = s.tbu := by unfold State.takeOrder; split <;> rfl
@[simp] theorem State.takeOrder_wdi (s : State) :
    (s.takeOrder).wdi = s.wdi := by unfold State.takeOrder; split <;> rfl
@[simp] theorem State.takeOrder_sau (s : State) :
    (s.takeOrder).sau = s.sau := by unfold State.takeOrder; split <;> rfl
@[simp] theorem State.takeOrder_tsu (s : State) :
    (s.takeOrder).tsu = s.tsu := by unfold State.takeOrder; split <;> rfl
@[simp] theorem State.takeOrder_tt (s : State) :
    (s.takeOrder).tt = s.tt := by unfold State.takeOrder; split <;> rfl
@[simp] theorem State.takeOrder_se (s : State) :
    (s.takeOrder).se = s.se := by unfold State.takeOrder; split <;> rfl
@[simp] theorem State.takeOrder_next (s : State) :
    (s.takeOrder).next = s.next := by unfold State.takeOrder; split <;> rfl
@[simp] theorem State.takeOrder_ab (s : State) :
    (s.takeOrder).ab = s.ab := by unfold State.takeOrder; split <;> rfl
@[simp] theorem State.takeOrder_sli (s : State) :
    (s.takeOrder).sli = s.sli := by unfold State.takeOrder; split <;> rfl
@[simp] theorem State.takeOrder_rpw (s : State) :
    (s.takeOrder).rpw = s.rpw := by unfold State.takeOrder; split <;> rfl
@[simp] theorem State.takeOrder_site (s : State) :
    (s.takeOrder).site = s.site := by unfold State.takeOrder; split <;> rfl
@[simp] theorem State.takeOrder_atu (s : State) :
    (s.takeOrder).atu = s.atu := by unfold State.takeOrder; split <;> rfl
@[simp] theorem State.takeOrder_lvu (s : State) :
    (s.takeOrder).lvu = s.lvu := by unfold State.takeOrder; split <;> rfl

end Sys2Proof.Machine
end

