-- ==== Sys2Proof/Laws/Vectors.lean ====
section
/-!
SUPPORT. Reading a vector of channels after a change of one element or of every element.
-/

namespace Sys2Proof.Machine

open Sys2Proof

theorem vector_get_eq {α : Type} {n : Nat} (v : Vector α n) (i : Fin n) : v.get i = v[i.val] := rfl

@[simp] theorem alter_get_self {α : Type} {n : Nat} (v : Vector α n) (i : Fin n) (f : α → α) :
    (alter v i f).get i = f (v.get i) := by
  rw [vector_get_eq, alter, Vector.getElem_set_self]

theorem alter_get_ne {α : Type} {n : Nat} (v : Vector α n) (i j : Fin n) (f : α → α) (h : j ≠ i) :
    (alter v i f).get j = v.get j := by
  rw [vector_get_eq, alter, Vector.getElem_set_ne _ _ (fun e => h (Fin.ext e.symm))]
  rfl

@[simp] theorem alterAll_get {α : Type} {n : Nat} (v : Vector α n) (i : Fin n) (f : α → α) :
    (alterAll v f).get i = f (v.get i) := by
  rw [vector_get_eq, vector_get_eq]
  simp [alterAll]

@[simp] theorem tabulate_get {α : Type} {n : Nat} (f : Fin n → α) (i : Fin n) :
    (tabulate n f).get i = f i := by
  rw [vector_get_eq]
  simp [tabulate]

theorem vector_ext_get {α : Type} {n : Nat} {v w : Vector α n} (h : ∀ i : Fin n, v.get i = w.get i) :
    v = w := by
  apply Vector.ext
  intro i hi
  exact h ⟨i, hi⟩

theorem detOf_detIndex (d : Det) : detOf (detIndex d) = d := by cases d <;> rfl

theorem detIndex_detOf (i : Fin 5) : detIndex (detOf i) = i := by
  revert i
  decide

theorem detIndex_injective {a b : Det} (h : detIndex a = detIndex b) : a = b := by
  rw [← detOf_detIndex a, h, detOf_detIndex]

theorem strainInput_involutive (swap : Bool) (i : Fin 16) :
    strainInput swap (strainInput swap i) = i := by
  revert swap i
  decide

theorem scannerLink_involutive (swap : Bool) (i : Fin 4) :
    scannerLink swap (scannerLink swap i) = i := by
  revert swap i
  decide

end Sys2Proof.Machine
end

