-- ==== Sys2Proof/Laws/Buffers.lean ====
section
/-!
SUPPORT. Timers, train buffers and the open train: what the shared operations over them do, once.
-/

namespace Sys2Proof.Machine

open Sys2Proof

/-! ### Timers -/

theorem State.ran_iff (s : State) (start : Cycle) (n : Nat) :
    s.ran start n = true ↔ n ≤ (s.tbu.cycle - start).toNat := by
  unfold State.ran elapsed
  exact decide_eq_true_iff

theorem State.ran_eq_false_iff (s : State) (start : Cycle) (n : Nat) :
    s.ran start n = false ↔ (s.tbu.cycle - start).toNat < n := by
  rw [← Bool.not_eq_true, State.ran_iff, Nat.not_le]

/-- A level that has stood is a level held (R3, R122). -/
theorem State.levelHeld_iff (s : State) (since : Cycle) (n : Nat) :
    s.levelHeld since n = true ↔ s.StoodFor since n := by
  unfold State.levelHeld State.StoodFor
  rw [decide_eq_true_iff]

/-! ### Detectors -/

theorem State.alterDetector_self (s : State) (d : Det) (f : Detector → Detector) :
    (s.alterDetector d f).detector d = f (s.detector d) := by
  simp [State.alterDetector, State.detector]

theorem State.alterDetector_other (s : State) (d e : Det) (f : Detector → Detector) (h : e ≠ d) :
    (s.alterDetector d f).detector e = s.detector e := by
  simp only [State.alterDetector, State.detector]
  exact alter_get_ne _ _ _ _ (fun k => h (detIndex_injective k))

/-! ### Train buffers -/

theorem State.alterBuffer_self (s : State) (b : Fin 4) (f : Buffer → Buffer) :
    (s.alterBuffer b f).buffer b = f (s.buffer b) := by
  simp [State.alterBuffer, State.buffer]

theorem State.alterBuffer_other (s : State) (b a : Fin 4) (f : Buffer → Buffer) (h : a ≠ b) :
    (s.alterBuffer b f).buffer a = s.buffer a := by
  simp only [State.alterBuffer, State.buffer]
  exact alter_get_ne _ _ _ _ h

/-- Two states whose buffers have the same states find the same buffer in a state. -/
theorem State.bufferIn_congr {s t : State} (h : ∀ b, (t.buffer b).state = (s.buffer b).state)
    (st : BufferState) : t.bufferIn st = s.bufferIn st := by
  unfold State.bufferIn
  congr 1
  funext b
  rw [h b]

/-- Two states whose buffers have the same states and train numbers find the same buffer of a train. -/
theorem State.bufferOf_congr {s t : State} (h : ∀ b, (t.buffer b).state = (s.buffer b).state)
    (k : ∀ b, (t.buffer b).record.number = (s.buffer b).record.number) (train : Word) :
    t.bufferOf train = s.bufferOf train := by
  unfold State.bufferOf
  congr 1
  funext b
  rw [h b, k b]

/-- The buffer found in a state is in that state. -/
theorem State.bufferIn_some {s : State} {st : BufferState} {b : Fin 4} (h : s.bufferIn st = some b) :
    (s.buffer b).state = st := by
  have := List.find?_some h
  simpa using this

theorem State.bufferIn_none {s : State} {st : BufferState} (h : s.bufferIn st = none) (b : Fin 4) :
    (s.buffer b).state ≠ st := by
  have := List.find?_eq_none.1 h b (List.mem_finRange b)
  simpa using this

/-- A change of a buffer that keeps its state keeps which buffer is found in a state. -/
theorem State.alterBuffer_bufferIn (s : State) (b : Fin 4) (f : Buffer → Buffer) (st : BufferState)
    (h : (f (s.buffer b)).state = (s.buffer b).state) :
    (s.alterBuffer b f).bufferIn st = s.bufferIn st := by
  apply State.bufferIn_congr
  intro a
  by_cases k : a = b
  · subst k
    rw [State.alterBuffer_self, h]
  · rw [State.alterBuffer_other _ _ _ _ k]

/-! ### No train open -/

theorem State.trainOpen_false {s : State} (h : s.trainOpen = false) :
    s.bufferIn .opened = none ∧ s.tt.countOnly = none := by
  simpa [State.trainOpen] using h

/-- With no train open a change of the open train changes nothing. -/
theorem State.alterOpen_of_none {s : State} (h : s.trainOpen = false) (f : TrainRecord → TrainRecord) :
    s.alterOpen f = s := by
  obtain ⟨h1, h2⟩ := State.trainOpen_false h
  have h3 : s.tt = { s.tt with countOnly := none } := by rw [← h2]
  unfold State.alterOpen
  rw [h1]
  simp only [h2, Option.map_none]
  rw [← h3]

/-- With no train open no close condition is evaluated. -/
theorem State.evaluateClose_of_none {s : State} (h : s.trainOpen = false) : s.evaluateClose = s := by
  obtain ⟨h1, h2⟩ := State.trainOpen_false h
  simp [State.evaluateClose, State.openRecord, h1, h2]

/-- With no train open a change of occupancy is no event at the TT (R6). -/
theorem State.occupancyChanged_of_none {s : State} (h : s.trainOpen = false) : s.occupancyChanged = s := by
  simp only [State.occupancyChanged, State.syncQuiet, State.alterOpen_of_none h,
    State.evaluateClose_of_none h]

theorem State.afterOccupancy_of_none {s : State} (h : s.trainOpen = false) (d : Det) (before : Bool) :
    s.afterOccupancy d before = s := by
  unfold State.afterOccupancy
  rw [State.occupancyChanged_of_none h]
  split <;> rfl

/-- With no train open a fault raises SENSOR attention alone (R1). -/
theorem State.faultEntered_of_none {s : State} (h : s.trainOpen = false) :
    s.faultEntered = s.raise .sensor := by
  unfold State.faultEntered State.markSensorFault
  exact State.alterOpen_of_none (by exact h) _

/-! ### The tracker -/

/-- Entering a tracker state leaves a detector everything but its stuck timer (R7). -/
theorem State.enterTracker_detector (s : State) (t : Tracker) (d : Det) :
    (s.enterTracker t).detector d =
      { s.detector d with stuckTimer := ((s.enterTracker t).detector d).stuckTimer } := by
  simp only [State.enterTracker, State.detector, alterAll_get, Detector.onTracker]
  split
  · rfl
  · split <;> rfl

/-- With a train open no stuck timer runs (R7). -/
theorem State.enterTracker_opened (s : State) (d : Det) :
    ((s.enterTracker .opened).detector d).stuckTimer = none := by
  simp [State.enterTracker, State.detector, Detector.onTracker]

end Sys2Proof.Machine
end

