-- ==== Sys2Proof/Laws/Orders.lean ====
section
/-!
SUPPORT. What the completion of an order does, once: its slot, its words in the memory, and nothing else.
-/

namespace Sys2Proof.Machine

open Sys2Proof

/-- The bytes of consecutive words. -/
theorem flatMap_wordBytes_length (ws : List Word) : (ws.flatMap wordBytes).length = 4 * ws.length := by
  induction ws with
  | nil => rfl
  | cons w ws ih =>
    simp only [List.flatMap_cons, List.length_append, ih, wordBytes_length, List.length_cons]
    omega

/-- The part's store of words leaves every byte outside them alone. -/
theorem State.put_readByte_outside (s : State) (base : Nat) (ws : List Word) (a : Nat)
    (h : a < base ∨ base + 4 * ws.length ≤ a) : (s.put base ws).mem.readByte a = s.mem.readByte a :=
  Memory.readByte_writeBytes_outside _ _ _ _ (by rw [flatMap_wordBytes_length]; exact h)

theorem State.put_readWord_outside (s : State) (base : Nat) (ws : List Word) (a : Nat)
    (h : a + 4 ≤ base ∨ base + 4 * ws.length ≤ a) : (s.put base ws).mem.readWord a = s.mem.readWord a := by
  unfold Memory.readWord
  rw [State.put_readByte_outside, State.put_readByte_outside, State.put_readByte_outside,
    State.put_readByte_outside] <;> omega

theorem flatMap_wordBytes_get (ws : List Word) : ∀ (i k : Nat) (hi : i < ws.length), k < 4 →
    (ws.flatMap wordBytes)[4 * i + k]? = (wordBytes ws[i])[k]? := by
  induction ws with
  | nil => simp
  | cons w ws ih =>
    intro i k hi hk
    cases i with
    | zero =>
      rw [List.flatMap_cons, List.getElem?_append_left (by simpa [wordBytes] using hk)]
      simp
    | succ i =>
      rw [List.flatMap_cons, List.getElem?_append_right (by rw [wordBytes_length]; omega),
        wordBytes_length, show 4 * (i + 1) + k - 4 = 4 * i + k by omega,
        ih i k (by simpa using hi) hk]
      simp

/-- A word of a run that the part has stored is the word read at its place. -/
theorem State.put_readWord_inside (s : State) (base : Nat) (ws : List Word) (i : Nat) (hi : i < ws.length) :
    (s.put base ws).mem.readWord (base + 4 * i) = ws[i] := by
  have key (k : Nat) (hk : k < 4) :
      some ((s.put base ws).mem.readByte (base + 4 * i + k)) = (wordBytes ws[i])[k]? := by
    have hlen : 4 * i + k < (ws.flatMap wordBytes).length := by
      rw [flatMap_wordBytes_length]; omega
    have h := Memory.readByte_writeBytes_inside s.mem base (ws.flatMap wordBytes) (4 * i + k) hlen
    rw [show base + 4 * i + k = base + (4 * i + k) by omega]
    show some ((s.mem.writeBytes base (ws.flatMap wordBytes)).readByte _) = _
    rw [h, ← List.getElem?_eq_getElem hlen, flatMap_wordBytes_get ws i k hi hk]
  have h0 := key 0 (by omega)
  have h1 := key 1 (by omega)
  have h2 := key 2 (by omega)
  have h3 := key 3 (by omega)
  simp only [wordBytes, List.getElem?_cons_zero, List.getElem?_cons_succ, Option.some.injEq,
    Nat.add_zero] at h0 h1 h2 h3
  unfold Memory.readWord
  rw [h0, h1, h2, h3]
  exact wordOfBytes_wordBytes _

/-- The state word of a slot. -/
theorem stateWord_eq (st : SlotState) (oc : OrderOutcome) :
    pack [(0, 3, st.code), (8, 8, oc.code)] = BitVec.ofNat 32 (st.code + 256 * oc.code) := by
  cases st <;> cases oc <;> decide

/-- What a change of a slot does: the slot, its words, and no other word or slot. -/
theorem State.alterSlot_spec (s : State) (n : Fin 16) (f : Slot → Slot) :
    (s.alterSlot n f).ou = { s.ou with slots := alter s.ou.slots n f } ∧
    s.mem.SameButSlot (s.alterSlot n f).mem n ∧ (s.alterSlot n f).ShowsSlot n := by
  refine ⟨rfl, ?_, ?_⟩
  · intro a h1 h2
    unfold State.alterSlot State.showSlot
    simp only [] at h1 h2 ⊢
    rw [State.put_readByte_outside, State.put_readByte_outside, State.put_readByte_outside] <;>
      simp only [List.length_cons, List.length_nil] <;> omega
  · unfold State.ShowsSlot State.alterSlot State.showSlot
    simp only [State.put_ou]
    refine ⟨?_, ?_, ?_, ?_⟩
    · rw [State.put_readWord_inside _ (slotBase n + 0x08) _ 0 (by simp)]
      exact stateWord_eq _ _
    · rw [State.put_readWord_outside _ _ _ _ (by simp), State.put_readWord_outside _ _ _ _ (by simp)]
      exact State.put_readWord_inside _ (slotBase n + 0x04) _ 0 (by simp)
    · rw [State.put_readWord_outside _ _ _ _ (by simp)]
      exact State.put_readWord_inside _ (slotBase n + 0x20) _ 0 (by simp)
    · rw [State.put_readWord_outside _ _ _ _ (by simp)]
      exact State.put_readWord_inside _ (slotBase n + 0x20) _ 1 (by simp)

/-- What the completion of a slot's order does (R166). -/
theorem State.finishSlot_spec (s : State) (n : Fin 16) (o : OrderOutcome) (r1 r2 : Word) :
    s.CompletedSlot (s.finishSlot n o r1 r2) n o r1 r2 ∧
      (s.finishSlot n o r1 r2).ou.running = s.ou.running ∧
      (s.finishSlot n o r1 r2).ou.waiting = s.ou.waiting := by
  obtain ⟨h1, h2, h3⟩ := State.alterSlot_spec s n
    (fun x => { x with state := .done, outcome := o, result1 := r1, result2 := r2 })
  refine ⟨⟨rfl, ?_, ?_, rfl, rfl, h2, h3⟩, rfl, rfl⟩
  · show (alter s.ou.slots n _).get n = _
    simp
  · intro k hk
    exact alter_get_ne _ _ _ _ hk

/-- What the completion of the running order does (R166). -/
theorem State.finishRunning_spec (s : State) (o : RunningOrder) (oc : OrderOutcome) (r1 r2 : Word) :
    s.AnsweredFrom (s.finishRunning o.slot oc r1 r2) o oc r1 r2 := by
  obtain ⟨⟨_, h2, h3, h4, h5, h6, h7⟩, _, h9⟩ := State.finishSlot_spec s o.slot oc r1 r2
  exact ⟨⟨rfl, h2, h3, h4, h5, h6, h7⟩, rfl, h9⟩

/-- What the completion of the waiting order does (R168). -/
theorem State.finishWaiting_spec (s : State) (n : Fin 16) (r2 : Word) :
    s.CompletedSlot (s.finishWaiting n r2) n .done 0 r2 ∧ (s.finishWaiting n r2).ou.waiting = none ∧
      (s.finishWaiting n r2).ou.running = s.ou.running := by
  obtain ⟨⟨_, h2, h3, h4, h5, h6, h7⟩, h8, _⟩ := State.finishSlot_spec s n .done 0 r2
  exact ⟨⟨rfl, h2, h3, h4, h5, h6, h7⟩, rfl, h8⟩

/-- The completion of a running order of a kind runs that kind's effect, and is nothing while no order of the
kind runs (R166). -/
theorem State.completing_of_runs {s : State} {k : OrderKind} {o : RunningOrder} (h : s.RunsOrder k o)
    (f : RunningOrder → State) : s.completing k f = f o := by
  obtain ⟨h1, h2⟩ := h
  simp [State.completing, h1, h2]

/-- A command taken while the part runs has its effect at its instant. -/
theorem event_running {s : State} {now : Cycle} (h : s.Running) (f : State → State) :
    event now s f = .next (f (s.advance now)) := by
  have h : s.power.held = false := h
  simp [event, h]

/-- A command other than POWER_RESET taken while the part is held changes nothing (R200). -/
theorem event_held {s : State} {now : Cycle} (h : s.power.held = true) (f : State → State) :
    event now s f = .next s := by
  simp [event, h]

/-- The channels that no class and index name (R195). -/
theorem channelOf_eq_none (cls idx : Word) : channelOf cls idx = none ↔
    (cls ≠ 1 ∧ cls ≠ 2 ∧ cls ≠ 3) ∨ (cls = 1 ∧ 5 ≤ idx.toNat) ∨ (cls = 2 ∧ 16 ≤ idx.toNat) ∨
      (cls = 3 ∧ 4 ≤ idx.toNat) := by
  have number (n : Nat) (h : n < 4) : cls = BitVec.ofNat 32 n ↔ cls.toNat = n :=
    ⟨fun e => by rw [e, BitVec.toNat_ofNat]; omega, fun e => BitVec.eq_of_toNat_eq (by rw [e, BitVec.toNat_ofNat]; omega)⟩
  have one := number 1 (by omega)
  have two := number 2 (by omega)
  have three := number 3 (by omega)
  unfold channelOf
  simp only [BitVec.ofNat_eq_ofNat, ne_eq] at *
  rw [one, two, three]
  split <;> simp_all

end Sys2Proof.Machine
end

