-- ==== Sys2Proof/Laws/Board.lean ====
section
/-!
SUPPORT. The alarm board and the stop line: what a change of a record and an alarm do, once, and which bytes of the
memory they leave alone.
-/

namespace Sys2Proof.Machine

open Sys2Proof

theorem Board.demand_mono {b : Board} (p : Fin 32) (r : AlarmRecord) (h : b.positions.get p = some r)
    (k : r.state = .committed) : b.demand = true := by
  unfold Board.demand
  rw [Bool.or_eq_true]
  left
  rw [List.any_eq_true]
  refine ⟨some r, ?_, by simp [k]⟩
  rw [← h]
  simp [vector_get_eq]

/-- The AB's handing on leaves the SLI's demand copy equal to the stop demand (R117). -/
theorem State.handDemand_demand (s : State) : s.handDemand.sli.demand = s.handDemand.ab.demand := by
  unfold State.handDemand
  split
  · next h => exact h.symm
  · show (s.sli.demandChange s.ab.demand s.tbu.cycle).demand = s.ab.demand
    unfold StopLine.demandChange
    split
    · rfl
    · simp only []
      split
      · rfl
      · split <;> rfl

/-- A handing on changes the SLI and its words alone. -/
theorem State.handDemand_frame (s : State) :
    s.handDemand = { s with sli := s.handDemand.sli, mem := s.handDemand.mem } := by
  unfold State.handDemand
  split <;> rfl

/-- A change of a record touches the board, the SLI, the memory and the pending causes, and of the board only
the positions and the versions. -/
theorem State.putRecord_frame (s : State) (p : Fin 32) (r : AlarmRecord) :
    s.putRecord p r = { s with
      ab := { s.ab with positions := (s.putRecord p r).ab.positions
                        versions := (s.putRecord p r).ab.versions }
      sli := (s.putRecord p r).sli, mem := (s.putRecord p r).mem
      atu := { s.atu with pending := (s.putRecord p r).atu.pending } } := by
  unfold State.putRecord
  simp only []
  split
  · rfl
  · rw [State.handDemand_frame]
    split <;> split <;> rfl

/-- A change of a record puts it at its position and leaves every other position alone. -/
theorem State.putRecord_positions (s : State) (p : Fin 32) (r : AlarmRecord) :
    (s.putRecord p r).ab.positions = s.ab.positions.set p.val (some r) p.isLt := by
  unfold State.putRecord
  simp only []
  split
  · next h =>
    apply vector_ext_get
    intro k
    by_cases e : k = p
    · subst e
      rw [h, vector_get_eq, Vector.getElem_set_self]
    · rw [vector_get_eq, vector_get_eq, Vector.getElem_set_ne _ _ (fun q => e (Fin.ext q.symm))]
  · rw [State.handDemand_frame]
    split <;> split <;> rfl

/-- An alarm handed to the AB changes the entry list of its train's buffer and the list's counters, and nothing
else of the buffer (R99 to R101). -/
theorem Buffer.listAlarm_frame (x : Buffer) (a : Alarm) (id : Nat) (refused : Bool) :
    x.listAlarm a id refused = { x with
      alarms := (x.listAlarm a id refused).alarms
      unlistedEntries := (x.listAlarm a id refused).unlistedEntries
      boardFull := (x.listAlarm a id refused).boardFull } := by
  unfold Buffer.listAlarm
  simp only []
  split
  · rfl
  · split <;> rfl

theorem State.mirrorAll_tt (ps : List (Fin 32)) : ∀ s : State, (ps.foldl State.mirror s).tt = s.tt := by
  induction ps with
  | nil => intro s; rfl
  | cons p ps ih => intro s; rw [List.foldl_cons, ih]; rfl

/-- Placing an alarm on the board leaves the trains alone. -/
theorem State.placeOnBoard_tt (s : State) (a : Alarm) : (s.placeOnBoard a).1.tt = s.tt := by
  unfold State.placeOnBoard
  split
  · split
    · exact State.putRecord_tt _ _ _
    · rfl
  · split
    · exact State.putRecord_tt _ _ _
    · split
      · unfold State.evictFor
        simp only []
        rw [State.mirrorAll_tt]
        exact State.putRecord_tt _ _ _
      · simp only []
        split
        · unfold State.refuseStop
          rw [State.handDemand_tt]
          rfl
        · rfl

/-- The board is in step with the SLI's demand copy after every change of a record (R117). -/
theorem State.putRecord_demand (s : State) (p : Fin 32) (r : AlarmRecord) (h : s.sli.demand = s.ab.demand) :
    (s.putRecord p r).sli.demand = (s.putRecord p r).ab.demand := by
  unfold State.putRecord
  simp only []
  split
  · exact h
  · exact State.handDemand_demand _

/-- What an alarm changes of the trains: the entry list of one buffer (R99). -/
theorem State.raiseAlarm_buffer (s : State) (a : Alarm) (b : Fin 4) :
    (s.raiseAlarm a).buffer b = { s.buffer b with
      alarms := ((s.raiseAlarm a).buffer b).alarms
      unlistedEntries := ((s.raiseAlarm a).buffer b).unlistedEntries
      boardFull := ((s.raiseAlarm a).buffer b).boardFull } := by
  have key (t : State) (h : t.tt = s.tt) : t.buffer b = s.buffer b := by
    unfold State.buffer
    rw [h]
  unfold State.raiseAlarm
  simp only []
  split
  · next c _ =>
    by_cases e : b = c
    · subst e
      rw [State.alterBuffer_self, Buffer.listAlarm_frame, key]
      split
      · rfl
      · exact State.placeOnBoard_tt _ _
    · rw [State.alterBuffer_other _ _ _ _ e, key]
      split
      · rfl
      · exact State.placeOnBoard_tt _ _
  · rw [key]
    split
    · rfl
    · exact State.placeOnBoard_tt _ _

/-! ### The bytes of the memory that the board leaves alone (R118, R135) -/

theorem Memory.SameButBoard.refl (m : Memory) (shown : Fin 32 → Prop) : m.SameButBoard m shown :=
  fun _ _ _ => rfl

theorem Memory.SameButBoard.trans {m m' m'' : Memory} {shown : Fin 32 → Prop} (h : m.SameButBoard m' shown)
    (k : m'.SameButBoard m'' shown) : m.SameButBoard m'' shown :=
  fun a ha hp => (k a ha hp).trans (h a ha hp)

theorem Memory.SameButBoard.mono {m m' : Memory} {shown more : Fin 32 → Prop} (h : m.SameButBoard m' shown)
    (k : ∀ p, shown p → more p) : m.SameButBoard m' more :=
  fun a ha hp => h a ha (fun p hs => hp p (k p hs))

theorem Board.mirrorWords_length (b : Board) (p : Fin 32) : (b.mirrorWords p).length = 16 := by
  unfold Board.mirrorWords
  split <;> rfl

theorem State.showStopLine_outside (s : State) {a : Nat} (h : a < 0x28 ∨ 0x30 ≤ a) :
    s.showStopLine.mem.readByte a = s.mem.readByte a :=
  State.put_readByte_outside _ _ _ _ h

theorem State.alterLine_outside (s : State) (f : StopLine → StopLine) {a : Nat} (h : a < 0x28 ∨ 0x30 ≤ a) :
    (s.alterLine f).mem.readByte a = s.mem.readByte a :=
  State.showStopLine_outside _ h

theorem State.handDemand_outside (s : State) {a : Nat} (h : a < 0x28 ∨ 0x30 ≤ a) :
    s.handDemand.mem.readByte a = s.mem.readByte a := by
  unfold State.handDemand
  split
  · rfl
  · exact State.alterLine_outside _ _ h

theorem State.mirror_outside (s : State) (p : Fin 32) {a : Nat} (h : a < mirrorBase p ∨ mirrorBase p + 0x40 ≤ a) :
    (s.mirror p).mem.readByte a = s.mem.readByte a :=
  State.put_readByte_outside _ _ _ _ (by rw [Board.mirrorWords_length]; exact h)

/-- A change of a record writes its mirror and the stop line's words. -/
theorem State.putRecord_outside (s : State) (p : Fin 32) (r : AlarmRecord) :
    s.mem.SameButBoard (s.putRecord p r).mem (fun q => q = p) := by
  intro a ha hp
  unfold State.putRecord
  simp only []
  split
  · rfl
  · rw [State.handDemand_outside _ ha]
    split <;> split <;> (try unfold State.commitEvent) <;> (try rw [State.alterLine_outside _ _ ha]) <;>
      exact State.mirror_outside _ _ (hp p rfl)

/-- A handing on that leaves the stop line alone does nothing. -/
theorem State.handDemand_eq_self {s : State} (h : s.handDemand.sli = s.sli) : s.handDemand = s := by
  have d := State.handDemand_demand s
  rw [h] at d
  have k : s.handDemand.ab = s.ab := by rw [State.handDemand_frame]
  unfold State.handDemand
  rw [if_pos (by rw [d, k])]

/-- A change of a record that is no commitment and leaves the stop line alone leaves its words alone too. -/
theorem State.putRecord_stopWords (s : State) (p : Fin 32) (r : AlarmRecord)
    (hc : commits (s.ab.positions.get p) r = false) (hl : (s.putRecord p r).sli = s.sli) {a : Nat} (ha : a < 0x30) :
    (s.putRecord p r).mem.readByte a = s.mem.readByte a := by
  have apart : a < mirrorBase p := by unfold mirrorBase; omega
  have key (v : State) (hs : v.sli = s.sli) (hm : v.mem.readByte a = s.mem.readByte a)
      (h : v.handDemand.sli = s.sli) : v.handDemand.mem.readByte a = s.mem.readByte a := by
    rw [State.handDemand_eq_self (h.trans hs.symm), hm]
  unfold State.putRecord at hl ⊢
  simp only [hc, Bool.false_eq_true, if_false] at hl ⊢
  split
  · rfl
  · next changed =>
    rw [if_neg changed] at hl
    refine key _ ?_ ?_ hl
    · split <;> rfl
    · split <;> exact State.mirror_outside _ _ (.inl apart)

theorem State.mirrorAll_outside (ps : List (Fin 32)) :
    ∀ s : State, s.mem.SameButBoard (ps.foldl State.mirror s).mem (fun q => q ∈ ps) := by
  induction ps with
  | nil => exact fun s => Memory.SameButBoard.refl _ _
  | cons p ps ih =>
    intro s a ha hp
    rw [List.foldl_cons, ih _ a ha (fun q hq => hp q (List.mem_cons_of_mem _ hq)),
      State.mirror_outside _ _ (hp p (List.mem_cons_self ..))]

/-- A creation writes the mirror of its position and the stop line's words. -/
theorem State.createAt_outside (s : State) (p : Fin 32) (a : Alarm) :
    s.mem.SameButBoard (s.createAt p a).mem (fun q => q = p) := by
  intro b hb hp
  unfold State.createAt
  simp only []
  rw [State.putRecord_outside _ p _ b hb hp]

/-- An eviction with its creation writes the mirror of the position and of those behind it, and the stop line's words. -/
theorem State.evictFor_outside (s : State) (p : Fin 32) (a : Alarm) :
    s.mem.SameButBoard (s.evictFor p a).mem (fun q => q = p ∨ q ∈ s.ab.order.drop (s.ab.order.idxOf p + 1)) := by
  intro b hb hp
  unfold State.evictFor
  simp only []
  rw [State.mirrorAll_outside _ _ b hb (fun q hq => hp q (.inr hq)),
    State.createAt_outside _ p a b hb (fun q hq => hp q (.inl hq))]

/-- A refused STOP writes the stop line's words alone (R110). -/
theorem State.refuseStop_outside (s : State) {a : Nat} (h : a < 0x28 ∨ 0x30 ≤ a) :
    s.refuseStop.mem.readByte a = s.mem.readByte a := by
  unfold State.refuseStop
  rw [State.handDemand_outside _ h]
  unfold State.commitEvent
  rw [State.alterLine_outside _ _ h]
  exact State.showStopLine_outside _ h

/-- Placing an alarm on the board writes mirrors and the stop line's words. -/
theorem State.placeOnBoard_outside (s : State) (a : Alarm) :
    s.mem.SameButBoard (s.placeOnBoard a).1.mem (fun _ => True) := by
  unfold State.placeOnBoard
  split
  · split
    · exact (State.putRecord_outside _ _ _).mono (fun _ _ => trivial)
    · exact .refl _ _
  · split
    · exact (State.createAt_outside _ _ _).mono (fun _ _ => trivial)
    · split
      · exact (State.evictFor_outside _ _ _).mono (fun _ _ => trivial)
      · simp only []
        split
        · exact fun _ h _ => State.refuseStop_outside _ h
        · exact .refl _ _

/-- So does an alarm of an axle, with its entry in the train's list. -/
theorem State.raiseForAxle_outside (s : State) (a : Alarm) :
    s.mem.SameButBoard (s.raiseForAxle a).mem (fun _ => True) := by
  have raised : s.mem.SameButBoard (s.raiseAlarm a).mem (fun _ => True) := by
    unfold State.raiseAlarm
    simp only []
    split <;> (split <;> first | exact .refl _ _ | exact State.placeOnBoard_outside _ _)
  unfold State.raiseForAxle
  simp only []
  split <;> exact raised

theorem State.raiseAll_outside (as : List Alarm) :
    ∀ s : State, s.mem.SameButBoard (as.foldl State.raiseForAxle s).mem (fun _ => True) := by
  induction as with
  | nil => exact fun s => .refl _ _
  | cons a as ih => exact fun s => (State.raiseForAxle_outside s a).trans (ih _)

end Sys2Proof.Machine
end

