-- ==== Sys2Proof/Laws/Consist.lean ====
section
/-!
SUPPORT. What reading the vehicle records of the consist area can answer, once (R86, R87, R197).
-/

namespace Sys2Proof.Machine

open Sys2Proof

theorem vehicleKindOf_eq_none (n : Nat) : vehicleKindOf n = none ↔ n = 0 ∨ 3 < n := by
  unfold vehicleKindOf
  split <;> simp_all
  omega

theorem vehicleKindOf_code {n : Nat} {k : VehicleKind} (h : vehicleKindOf n = some k) : k.code = n := by
  unfold vehicleKindOf at h
  split at h <;> simp at h <;> subst h <;> rfl

theorem printable_eq_false (b : Byte) : printable b = false ↔ b.toNat < 0x20 ∨ 0x7E < b.toNat := by
  unfold printable
  rw [Bool.and_eq_false_iff]
  simp

theorem Memory.vehicleByte_eq (m : Memory) (n k : Nat) :
    m.vehicleByte n k = (m.readByte (consistBase n + k)).toNat := rfl

/-- A record is refused exactly when it fails a check. -/
theorem readVehicle_eq_none (m : Memory) (n : Nat) : readVehicle m n = none ↔ m.VehicleFails n := by
  have kind := vehicleKindOf_eq_none (m.vehicleByte n 14)
  have tag : ((List.range (m.vehicleByte n 12)).map fun k => m.readByte (consistBase n + k)).all printable = true ↔
      ¬∃ k : Nat, k < m.vehicleByte n 12 ∧ (m.vehicleByte n k < 0x20 ∨ 0x7E < m.vehicleByte n k) := by
    simp only [List.all_map, List.all_eq_true, List.mem_range, Function.comp_apply, Memory.vehicleByte_eq,
      ← printable_eq_false]
    simp
  have checks : (m.vehicleByte n 12 ≤ 12 ∧ 1 ≤ m.vehicleByte n 13 ∧ m.vehicleByte n 13 ≤ 16 ∧
      ((List.range (m.vehicleByte n 12)).map fun k => m.readByte (consistBase n + k)).all printable = true) ∧
      ¬(m.vehicleByte n 14 = 0 ∨ 3 < m.vehicleByte n 14) ↔ ¬m.VehicleFails n := by
    rw [tag]
    simp only [Memory.VehicleFails, not_or]
    exact ⟨fun ⟨⟨a, b, c, t⟩, d, e⟩ => ⟨by omega, t, by omega, by omega, d, e⟩,
      fun ⟨a, t, b, c, d, e⟩ => ⟨⟨by omega, by omega, by omega, t⟩, d, e⟩⟩
  simp only [readVehicle]
  split
  · next h => exact iff_of_true rfl (.inr (.inr (.inr (.inr (kind.mp h)))))
  · next k h =>
    have known : ¬(m.vehicleByte n 14 = 0 ∨ 3 < m.vehicleByte n 14) := fun f => by
      cases (kind.mpr f).symm.trans h
    split
    · next ok => exact iff_of_false nofun (checks.mp ⟨ok, known⟩)
    · next ok => exact iff_of_true rfl (not_not.mp fun f => ok (checks.mpr f).1)

/-- An accepted record gives the vehicle that it holds. -/
theorem readVehicle_eq_some {m : Memory} {n : Nat} {v : Vehicle} (h : readVehicle m n = some v) :
    v.WrittenAt m n := by
  simp only [readVehicle] at h
  split at h
  · cases h
  · next k hk =>
    split at h
    · cases h
      refine ⟨?_, rfl, vehicleKindOf_code hk, rfl⟩
      simp [Memory.vehicleByte, consistBase]
    · cases h

/-- Reading `count` records answers the position of the first that fails, counted on from `pos`, or every vehicle. -/
theorem readVehicles_cases (m : Memory) (first count : Nat) : ∀ pos : Nat, 0 < pos →
    (∃ k : Nat, k < count ∧ m.VehicleFails (first + (pos - 1) + k) ∧
      (∀ j : Nat, j < k → ¬m.VehicleFails (first + (pos - 1) + j)) ∧
      readVehicles m first pos count = .error (pos + k)) ∨
    ((∀ k : Nat, k < count → ¬m.VehicleFails (first + (pos - 1) + k)) ∧
      ∃ vs : List Vehicle, readVehicles m first pos count = .ok vs ∧ vs.length = count ∧
        ∀ (k : Nat) (v : Vehicle), vs[k]? = some v → v.WrittenAt m (first + (pos - 1) + k)) := by
  induction count with
  | zero => exact fun pos _ => .inr ⟨fun k h => absurd h (Nat.not_lt_zero k), [], rfl, rfl, by simp⟩
  | succ count ih =>
    intro pos hpos
    cases hv : readVehicle m (first + (pos - 1)) with
    | none =>
      refine .inl ⟨0, by omega, (readVehicle_eq_none m _).mp hv, by omega, ?_⟩
      simp [readVehicles, hv]
    | some v =>
      have good : ¬m.VehicleFails (first + (pos - 1)) := fun f => by
        rw [(readVehicle_eq_none m _).mpr f] at hv; cases hv
      have shift (k : Nat) : first + (pos + 1 - 1) + k = first + (pos - 1) + (k + 1) := by omega
      obtain ⟨k, hk, bad, before, e⟩ | ⟨all, vs, e, hlen, written⟩ := ih (pos + 1) (by omega)
      · refine .inl ⟨k + 1, by omega, shift k ▸ bad, fun j hj => ?_, ?_⟩
        · cases j with
          | zero => exact good
          | succ j => exact shift j ▸ before j (by omega)
        · simp [readVehicles, hv, e]; omega
      · refine .inr ⟨fun j hj => ?_, v :: vs, by simp [readVehicles, hv, e], by simp [hlen], fun j w hw => ?_⟩
        · cases j with
          | zero => exact good
          | succ j => exact shift j ▸ all j (by omega)
        · cases j with
          | zero =>
            simp only [List.getElem?_cons_zero, Option.some.injEq] at hw
            exact hw ▸ readVehicle_eq_some hv
          | succ j => exact shift j ▸ written j w (by simpa using hw)

end Sys2Proof.Machine
end

