-- ==== Sys2Proof/Laws/Settlement.lean ====
section
/-!
SUPPORT. The arithmetic of a settlement: what each formula of chapters 3 and 4 gives, once, in the words of
`Safety`.
-/

namespace Sys2Proof.Machine

open Sys2Proof

/-! ### Lists of numbers -/

theorem peakLoad_eq_max? : ∀ xs : List Nat, peakLoad xs = xs.max?
  | [] => rfl
  | x :: xs => by
    rw [peakLoad, peakLoad_eq_max? xs, List.max?_cons]
    cases xs.max? <;> rfl

theorem greatest_eq_max? : ∀ xs : List Int, greatest xs = xs.max?
  | [] => rfl
  | x :: xs => by
    rw [greatest, greatest_eq_max? xs, List.max?_cons]
    cases xs.max? <;> rfl

theorem least_eq_min? : ∀ xs : List Nat, least xs = xs.min?
  | [] => rfl
  | x :: xs => by
    rw [least, least_eq_min? xs, List.min?_cons]
    cases xs.min? <;> rfl

theorem insertSorted_perm (x : Nat) : ∀ xs : List Nat, (insertSorted x xs).Perm (x :: xs)
  | [] => List.Perm.refl _
  | y :: ys => by
    unfold insertSorted
    split
    · exact List.Perm.refl _
    · exact ((insertSorted_perm x ys).cons y).trans (List.Perm.swap x y ys)

theorem sortAscending_perm : ∀ xs : List Nat, (sortAscending xs).Perm xs
  | [] => List.Perm.refl _
  | x :: xs => (insertSorted_perm x _).trans ((sortAscending_perm xs).cons x)

theorem insertSorted_sorted (x : Nat) : ∀ xs : List Nat, xs.Pairwise (· ≤ ·) →
    (insertSorted x xs).Pairwise (· ≤ ·)
  | [], _ => List.pairwise_singleton _ _
  | y :: ys, h => by
    obtain ⟨h1, h2⟩ := List.pairwise_cons.1 h
    unfold insertSorted
    split
    · next k =>
      refine List.pairwise_cons.2 ⟨fun z hz => ?_, h⟩
      rcases List.mem_cons.1 hz with e | e
      · exact e ▸ k
      · exact k.trans (h1 z e)
    · next k =>
      refine List.pairwise_cons.2 ⟨fun z hz => ?_, insertSorted_sorted x ys h2⟩
      rcases List.mem_cons.1 ((insertSorted_perm x ys).mem_iff.1 hz) with e | e
      · omega
      · exact h1 z e

theorem sortAscending_sorted : ∀ xs : List Nat, (sortAscending xs).Pairwise (· ≤ ·)
  | [] => List.Pairwise.nil
  | x :: xs => insertSorted_sorted x _ (sortAscending_sorted xs)

/-! ### Speeds (R55, R56) -/

theorem segmentSpeed_of (len : Nat) (dur : Int) (rate : Nat) : (segmentSpeed len dur rate).Of len dur rate := by
  unfold segmentSpeed SegmentSpeed.Of
  simp only [Nat.cast_mul]
  refine ⟨fun h => by simp [h], fun h k => ?_, fun h k l => ?_, fun h k => ?_⟩
  · rw [if_neg (by omega), if_pos k]
  · rw [if_neg (by omega), if_neg (by omega), if_neg (by omega)]
  · rw [if_neg (by omega), if_neg (by omega), if_pos k]

theorem axleSpeed_from (a b : SegmentSpeed) : SpeedFrom a b (axleSpeed a b) := by
  unfold SpeedFrom
  cases a <;> cases b <;> simp [axleSpeed]

/-- Segment speeds have one axle speed. -/
theorem SpeedFrom.eq {a b : SegmentSpeed} {v : Option Nat} (h : SpeedFrom a b v) : v = axleSpeed a b := by
  obtain ⟨h1, h2, h3, h4⟩ := h
  cases a <;> cases b <;> simp_all [axleSpeed]

/-! ### Loads (R60 to R64) -/

/-- A mean of kept loads, rounded half up, is no more than a bound on each of them. -/
theorem roundedMean_le (xs : List Nat) (m : Nat) (h : ∀ x ∈ xs, x ≤ m) :
    (xs.sum + xs.length / 2) / xs.length ≤ m := by
  have key : xs.sum ≤ xs.length * m := by
    induction xs with
    | nil => simp
    | cons x xs ih =>
      rw [List.sum_cons, List.length_cons, Nat.succ_mul, Nat.add_comm]
      exact Nat.add_le_add (ih (fun y hy => h y (List.mem_cons_of_mem _ hy))) (h x List.mem_cons_self)
  rcases Nat.eq_zero_or_pos xs.length with e | e
  · simp [e]
  · apply Nat.le_of_lt_succ
    rw [Nat.div_lt_iff_lt_mul e, Nat.succ_mul, Nat.mul_comm m]
    have : xs.length / 2 < xs.length := Nat.div_lt_self e (by omega)
    omega

/-- The wheel load keeps all but one smallest and one largest load (R62). -/
theorem wheelLoad_kept (xs : List Nat) (h : 5 ≤ xs.length) : ∃ (least most : Nat) (kept : List Nat),
    (least :: most :: kept).Perm xs ∧ (∀ w ∈ most :: kept, least ≤ w) ∧ (∀ w ∈ kept, w ≤ most) ∧
    wheelLoad xs = some ((kept.sum + kept.length / 2) / kept.length) := by
  have hp := sortAscending_perm xs
  have hs := sortAscending_sorted xs
  have hl := hp.length_eq
  unfold wheelLoad
  rw [if_neg (by omega)]
  match e : sortAscending xs with
  | [] => rw [e] at hl; simp at hl; omega
  | least :: rest =>
    rw [e] at hl hp hs
    have hne : rest ≠ [] := by rintro rfl; simp at hl; omega
    obtain ⟨h1, h2⟩ := List.pairwise_cons.1 hs
    have hc : rest.dropLast ++ [rest.getLast hne] = rest := List.dropLast_append_getLast hne
    refine ⟨least, rest.getLast hne, rest.dropLast, ?_, ?_, ?_, ?_⟩
    · refine List.Perm.trans (List.Perm.cons _ ?_) hp
      exact (List.perm_append_singleton _ _).symm.trans (by rw [hc])
    · intro w hw
      rcases List.mem_cons.1 hw with k | k
      · exact k ▸ h1 _ (List.getLast_mem hne)
      · exact h1 _ (List.dropLast_subset _ k)
    · intro w hw
      rw [← hc] at h2
      exact (List.pairwise_append.1 h2).2.2 w hw _ (by simp)
    · rfl

theorem CribRead.load_eq (r : CribRead) (gain : Nat) :
    (r.load gain).map (fun c : CribLoad => (c.load, c.clipped)) =
      (r.cribLoad gain).map (fun w => (w, r.points.any (·.clip))) := by
  unfold CribRead.load CribRead.cribLoad
  split
  · rw [greatest_eq_max?, Option.map_map, Option.map_map]
    rfl
  · rfl

theorem railCribs_eq (f : Settlement) (x : Extracted) (first : Nat) :
    (railCribs f.settings x first).map (fun c : CribLoad => (c.load, c.clipped)) = f.validCribs x first := by
  unfold railCribs Settlement.validCribs
  rw [List.map_filterMap, List.filterMap_filter]
  congr 1
  funext r
  simp only [decide_eq_true_eq]
  split
  · exact CribRead.load_eq _ _
  · rfl

/-- The loads of a rail are those of its valid cribs, also with its *unresolved* flag set (R62, R63, R67). -/
theorem railLoad_of (v : List CribLoad) (u : Bool) :
    ({ railLoad v with unresolved := u }).Of (v.map (fun c : CribLoad => (c.load, c.clipped))) := by
  have hl : wheelLoad (v.map (·.load)) = none ↔ v.length < 5 := by
    constructor
    · intro h
      by_contra k
      obtain ⟨_, _, _, _, _, _, e⟩ := wheelLoad_kept (v.map (·.load)) (by rw [List.length_map]; omega)
      rw [e] at h
      cases h
    · intro h
      unfold wheelLoad
      rw [if_pos (by rw [List.length_map]; omega)]
  have hm : (v.map (fun c : CribLoad => (c.load, c.clipped))).map (·.1) = v.map (·.load) := by
    rw [List.map_map]
    rfl
  unfold RailLoad.Of railLoad
  rw [hm]
  refine ⟨by simp, peakLoad_eq_max? _, ?_, ?_, ?_, ?_, ?_, ?_, ?_⟩
  · simp only [List.length_map, Option.isNone_iff_eq_none]
    exact hl
  · simp only [List.length_map]
    exact hl.2
  · intro h
    exact wheelLoad_kept _ (by simpa using h)
  · intro h
    simp only at h
    simp [h]
  · intro load peak h k
    simp only at h k
    refine ⟨?_, by simp [h, k], by simp [h, k, impactRatio]⟩
    have n5 : 5 ≤ (v.map (·.load)).length := by
      rw [List.length_map]
      by_contra q
      rw [hl.2 (by omega)] at h
      cases h
    obtain ⟨least, most, kept, hp, -, -, e⟩ := wheelLoad_kept _ n5
    rw [e] at h
    cases h
    apply roundedMean_le
    intro w hw
    rw [peakLoad_eq_max?] at k
    exact (List.max?_eq_some_iff.1 k).2 w
      (hp.mem_iff.1 (List.mem_cons_of_mem _ (List.mem_cons_of_mem _ hw)))
  · simp
  · simp only [List.any_eq_true, List.mem_map, Bool.and_eq_true, beq_iff_eq]
    constructor
    · rintro ⟨c, hc, e, k⟩
      exact ⟨_, ⟨c, hc, rfl⟩, e, k⟩
    · rintro ⟨_, ⟨c, hc, rfl⟩, e, k⟩
      exact ⟨c, hc, e, k⟩

/-! ### Judgements (R66 to R69, R77) -/

/-- A verdict as a row of its table. -/
def Verdict.row (v : Verdict) : Level × Nat × Nat := (v.level, v.value, v.threshold)

theorem flatJudged_iff (c : Settings) (speed : Option Nat) (outside : Bool) (r : RailLoad) :
    flatJudged c speed outside r = true ↔ r.Judged c speed outside := by
  unfold flatJudged RailLoad.Judged
  cases speed <;> cases r.load <;> cases outside <;> simp

theorem flatVerdict_row (c : Settings) (r : RailLoad) (d q load : Nat) (hd : r.dynamic = some d)
    (hq : r.ratio = some q) (hl : r.load = some load) :
    (flatVerdict c r).map Verdict.row = flatRow c d q load := by
  unfold flatVerdict flatRow
  rw [hd, hq, hl]
  simp only []
  split
  · rfl
  · split
    · rfl
    · split <;> rfl

/-- The judgement of a rail, with its *unresolved* flag (R66, R67). -/
theorem resolved_judged (c : Settings) (speed : Option Nat) (outside : Bool) (r : RailLoad) :
    (r.resolved c speed outside).FlatJudged c speed outside
      ((judgeFlat c speed outside (r.resolved c speed outside)).map Verdict.row) := by
  have hj : (r.resolved c speed outside).Judged c speed outside ↔ flatJudged c speed outside r = true :=
    (flatJudged_iff c speed outside r).symm
  have e1 : flatJudged c speed outside (r.resolved c speed outside) = flatJudged c speed outside r := rfl
  have e2 : flatVerdict c (r.resolved c speed outside) = flatVerdict c r := rfl
  unfold RailLoad.FlatJudged judgeFlat
  rw [hj, e1, e2]
  refine ⟨fun k => by rw [if_neg k]; rfl, ?_, ?_⟩
  · intro d q load k hd hq hl
    rw [if_pos k]
    exact flatVerdict_row c r d q load hd hq hl
  · show (flatJudged c speed outside r && r.clipped && (flatVerdict c r).isNone) = true ↔ _ ∧ r.clipped = true ∧ _
    rw [Bool.and_eq_true, Bool.and_eq_true, and_assoc]
    apply and_congr_right
    intro k
    rw [if_pos k]
    simp

theorem judgeOverload_row (c : Settings) (outside : Bool) (w : Option Nat) (limit : Nat) :
    (judgeOverload c outside w limit).map Verdict.row = overloadRow c limit outside w := by
  unfold judgeOverload overloadRow
  cases w with
  | none => rfl
  | some w =>
    simp only [Option.bind_some]
    split
    · rfl
    · split
      · rfl
      · split <;> rfl

theorem distance_eq_natAbs (p q : Nat) : distance p q = ((p : Int) - q).natAbs := by
  unfold distance
  omega

theorem judgeImbalance_row (c : Settings) (outside : Bool) (a b : RailLoad) :
    (judgeImbalance c outside a b).map Verdict.row =
      imbalanceRow c outside a.load b.load (axleLoadOf a b) := by
  unfold judgeImbalance imbalanceRow
  cases a.load <;> cases b.load <;> cases axleLoadOf a b <;> try rfl
  simp only [Option.bind_some, distance_eq_natAbs]
  split
  · rfl
  · split <;> rfl

theorem judgeRise_row (warn stop : Nat) (r : Rise) :
    (judgeRise warn stop r).map Verdict.row = riseRow warn stop r := by
  cases r with
  | invalid _ => rfl
  | valid r =>
    unfold judgeRise riseRow
    simp only []
    split
    · rfl
    · split <;> rfl

theorem clampInt_eq (lo hi v : Int) (h : lo ≤ hi) : clampInt lo hi v = max lo (min hi v) := by
  unfold clampInt
  split
  · omega
  · split <;> omega

/-! ### Rises (R75, R76) -/

theorem riseValue_eq (samples : List Int) (a : Int) (h : ¬samples.length < 3) :
    riseValue samples a = (max 0 (min 3000 (samples.max?.getD 0 - a))).toNat := by
  have hs : samples.max? ≠ none := by
    rw [Ne, List.max?_eq_none_iff]
    rintro rfl
    simp at h
  obtain ⟨m, hm⟩ := Option.ne_none_iff_exists'.1 hs
  rw [riseValue, greatest_eq_max?, hm, clampInt_eq _ _ _ (by omega)]
  rfl

theorem riseOf_eq (c : Settings) (speed : Option Nat) (inService : Bool) (x : Option ScanRead) :
    riseOf c speed inService x = riseFor c speed inService x := by
  rcases speed with - | v
  · rfl
  rcases x with - | ⟨aged, slots, - | a⟩
  · rfl
  · cases inService <;> simp [riseOf, riseFor]
  · have hs : slots.filterMap (fun x => x.map BitVec.toInt) = samplesOf slots := rfl
    unfold riseOf riseFor
    simp only [hs]
    by_cases k : (samplesOf slots).length < 3
    · cases inService <;> cases aged <;> simp [k]
    · cases inService <;> cases aged <;> simp [k, riseValue_eq _ _ k]

/-! ### The whole result -/

/-- What a settlement computes (R56, R60 to R70, R75 to R78). -/
theorem Settlement.result_computes (f : Settlement) (x : Extracted) : f.Computes x (f.result x) := by
  have rail (first : Nat) (speed : Option Nat) (outside : Bool) :
      ((railLoad (railCribs f.settings x first)).resolved f.settings speed outside).Of
        (f.validCribs x first) := by
    rw [← railCribs_eq]
    exact railLoad_of _ _
  have alarm_eq (v : Option Verdict) (k : AlarmKind) (r : Rail) :
      (v.map (fun v => v.alarm f.request k r)).toList =
        ((v.map Verdict.row).map (fun w => { kind := k, level := w.1, train := f.request.train
                                             axle := f.request.axle, rail := r, value := w.2.1
                                             threshold := w.2.2 : Alarm })).toList := by
    cases v <;> rfl
  unfold Settlement.Computes Settlement.result
  simp only []
  refine ⟨axleSpeed_from _ _, rail 0 _ _, rail 8 _ _, rfl, ?_, ?_, ?_, ?_, trivial, trivial, trivial, trivial, ?_,
    _, _, resolved_judged _ _ _ _, resolved_judged _ _ _ _, ?_⟩
  · unfold outOfRange
    cases axleSpeed f.segmentA f.segmentB <;> simp
  · simp
  · simp
  · unfold speedsDisagree
    cases f.segmentA <;> cases f.segmentB <;> simp [distance_eq_natAbs]
  · intro i
    rw [tabulate_get, riseOf_eq]
  · simp only [alarm_eq, judgeOverload_row, judgeImbalance_row, judgeRise_row]

/-! ### The take and the extraction (R49, R50, R55 to R59, R72 to R74) -/

theorem readCrib_of (c : StrainChannel) (inService : Bool) (mark : Option Int) (w : Window)
    (h : w.hi < (c.next : Int)) : (readCrib c inService mark w).Of c inService mark w := by
  have hv : (readCrib c inService mark w).valid = true ↔
      inService = true ∧ 3 ≤ w.hi - w.lo + 1 ∧ (∀ m, mark = some m → m < w.lo) ∧
        ((c.next - c.history.length : Nat) : Int) ≤ w.lo ∧ c.baseline ≠ none := by
    show (inService && 3 ≤ w.count && mark.all (fun e => e < w.lo) && c.oldest ≤ w.lo &&
      c.integerBaseline.isSome) = true ↔ inService = true ∧ 3 ≤ w.count ∧ _ ∧ (c.oldest : Int) ≤ w.lo ∧ _
    cases mark <;> simp [StrainChannel.integerBaseline, and_assoc, Option.ne_none_iff_isSome]
  refine ⟨hv, fun k => ?_⟩
  obtain ⟨-, h3, -, ho, hb⟩ := hv.1 k
  have hp : (readCrib c inService mark w).points = c.read w := by
    unfold readCrib at k ⊢
    exact if_pos k
  have hl : (c.read w).length = (w.hi - w.lo + 1).toNat := by
    unfold StrainChannel.read Window.count
    rw [List.length_take, List.length_drop]
    omega
  refine ⟨by rw [hp, hl]; omega, fun i hi => ?_, fun b e => ?_⟩
  · rw [hp] at hi ⊢
    rw [hl] at hi
    unfold StrainChannel.read Window.count
    rw [List.getElem?_take_of_lt hi, List.getElem?_drop]
    congr 1
    omega
  · simp [readCrib, StrainChannel.integerBaseline, e]

theorem readScan_of (c : Scanner) (nextSlot : Nat) (w : Window) (h : w.hi < (nextSlot : Int)) :
    (readScan c nextSlot w).Of c nextSlot w := by
  have ha : (readScan c nextSlot w).aged = true ↔ w.lo < ((nextSlot - c.history.length : Nat) : Int) := by
    simp [readScan]
  refine ⟨ha, fun k => ?_, rfl⟩
  have k' : ¬(w.lo < ((nextSlot - c.history.length : Nat) : Int)) := by rw [← ha, k]; simp
  have hp : (readScan c nextSlot w).slots =
      (c.history.drop ((nextSlot : Int) - 1 - w.hi).toNat).take w.count.toNat := by
    unfold readScan
    simp [k']
  have hl : (readScan c nextSlot w).slots.length = (w.hi - w.lo + 1).toNat := by
    rw [hp, List.length_take, List.length_drop, Window.count]
    omega
  refine ⟨hl, fun i hi => ?_⟩
  rw [hl] at hi
  rw [hp, Window.count, List.getElem?_take_of_lt hi, List.getElem?_drop]
  congr 1
  omega

theorem finRange_getElem? {n : Nat} (i : Fin n) : (List.finRange n)[i.val]? = some i := by
  rw [List.getElem?_eq_getElem (by simp)]
  simp

theorem covering_some : ∀ (vs : List Vehicle) (k i : Nat) (v : Vehicle), vs[k]? = some v →
    axlesBefore vs k ≤ i → i < axlesBefore vs k + v.axles → covering vs i = some v
  | [], _, _, _, h, _, _ => by simp at h
  | x :: xs, 0, i, v, h, _, hi => by
    simp only [List.getElem?_cons_zero, Option.some.injEq] at h
    subst h
    simp only [axlesBefore, List.take_zero, List.map_nil, List.sum_nil, Nat.zero_add] at hi
    exact if_pos hi
  | x :: xs, k + 1, i, v, h, lo, hi => by
    simp only [List.getElem?_cons_succ] at h
    have e : axlesBefore (x :: xs) (k + 1) = x.axles + axlesBefore xs k := by
      simp [axlesBefore]
    rw [e] at lo hi
    unfold covering
    rw [if_neg (by omega)]
    exact covering_some xs k (i - x.axles) v h (by omega) (by omega)

theorem covering_none : ∀ (vs : List Vehicle) (i : Nat), axlesBefore vs vs.length ≤ i → covering vs i = none
  | [], _, _ => rfl
  | x :: xs, i, h => by
    have e : axlesBefore (x :: xs) (x :: xs).length = x.axles + axlesBefore xs xs.length := by
      simp [axlesBefore]
    rw [e] at h
    unfold covering
    rw [if_neg (by omega)]
    exact covering_none xs _ (by omega)

theorem Segment.isValid_iff (g : Segment) : g.isValid = true ↔ ∃ x, g.speed = .valid x := by
  unfold Segment.isValid
  cases g.speed <;> simp

/-- Which segment times a place, when one of them is valid (R57). -/
theorem timingSegment_cases (c : Settings) (dir : Dir) (a : Option Segment) (b : Segment) (d : Nat)
    (h : ∃ v, SpeedFrom (optSpeed a) b.speed (some v)) :
    let byA : Prop := (∃ x, optSpeed a = .valid x) ∧ (d < c.refDistance dir ∨ ∀ y, b.speed ≠ .valid y)
    (∀ g, a = some g → byA → timingSegment c dir a b d = g) ∧
    (¬byA → timingSegment c dir a b d = b) := by
  have hb := b.isValid_iff
  obtain ⟨v, hv⟩ := h
  have hv := hv.eq
  cases a with
  | none => exact ⟨(fun _ h => nomatch h), fun _ => rfl⟩
  | some g =>
    have hg := g.isValid_iff
    simp only [optSpeed, Option.map_some, Option.getD_some] at hv ⊢
    unfold timingSegment
    simp only []
    refine ⟨fun g' e h => ?_, fun h => ?_⟩
    · cases e
      obtain ⟨h1, h2⟩ := h
      rw [hg.2 h1]
      split
      · rfl
      · rw [if_neg]
        rw [hb]
        rintro ⟨y, hy⟩
        exact (h2.resolve_left ‹_›) y hy
    · split
      · rw [if_neg]
        rw [hg]
        exact fun k => h ⟨k, .inl ‹_›⟩
      · split
        · rfl
        · next k =>
          exfalso
          rw [hb] at k
          have hn : ∀ y, b.speed ≠ .valid y := fun y hy => k ⟨y, hy⟩
          have hm : ∀ x, g.speed ≠ .valid x := fun x hx => h ⟨⟨x, hx⟩, .inr hn⟩
          cases e1 : g.speed <;> cases e2 : b.speed <;> simp_all [axleSpeed]

/-- A take fixes the inputs of its settlement (R49, R55 to R59, R72, R73, R92). -/
theorem State.settlementOf_fixes (s : State) (q : Request) :
    s.FixesInputs q ((s.bufferOf q.train).bind (fun i => (s.buffer i).consist)) (s.settlementOf q) := by
  have hd (p e : Nat) : ((p : Int) - e).natAbs = distance p e := (distance_eq_natAbs p e).symm
  have hB : (s.settlementOf q).segmentB = (Sys2Proof.Machine.segmentB s.site.settings q s.tbu.rate).speed := rfl
  have hA : (s.settlementOf q).segmentA = optSpeed (Sys2Proof.Machine.segmentA s.site.settings q s.tbu.rate) := rfl
  unfold State.FixesInputs
  simp only [hd]
  refine ⟨rfl, rfl, rfl, rfl, ?_, ?_, ?_, ?_, ?_, ?_, ?_, ?_, ?_⟩
  · intro n
    simp [State.settlementOf]
  · intro n
    simp [State.settlementOf]
  · intro vs k v hc hk lo hi
    have := covering_some vs k _ v hk lo hi
    simp [State.settlementOf, limitUnder, hc, this]
  · intro h
    have : ((s.bufferOf q.train).bind (fun i => (s.buffer i).consist)).bind (fun vs => covering vs q.axle) = none := by
      cases hc : (s.bufferOf q.train).bind (fun i => (s.buffer i).consist) with
      | none => rfl
      | some vs => exact covering_none vs _ (h vs hc)
    simp [State.settlementOf, limitUnder, this]
  · intro h
    rw [hA]
    simp [Sys2Proof.Machine.segmentA, optSpeed, h]
  · intro t1 h
    rw [hA]
    simp only [Sys2Proof.Machine.segmentA, optSpeed, h]
    have := segmentSpeed_of (s.site.settings.refDistance q.dir) (q.t2 - t1).toInt s.tbu.rate
    cases hq : q.dir <;> rw [hq] at this <;> exact this
  · have := segmentSpeed_of (s.site.settings.exitDistance q.dir - s.site.settings.refDistance q.dir) (q.t3 - q.t2).toInt s.tbu.rate
    rw [hB]
    unfold Sys2Proof.Machine.segmentB
    cases hq : q.dir <;> rw [hq] at this <;> exact this
  · intro v hv
    rw [hA, hB] at hv
    have hv' := hv
    have hv := hv.eq.symm
    have hc : (s.settlementOf q).cribWindows = (List.finRange 16).map (cribWindow s.site.settings q.dir
        (Sys2Proof.Machine.segmentA s.site.settings q s.tbu.rate) (Sys2Proof.Machine.segmentB s.site.settings q s.tbu.rate)) := by
      unfold State.settlementOf
      simp only [hv, Option.isSome_some, if_true]
    have hs : (s.settlementOf q).scanWindows = (List.finRange 4).map (scanWindow s.site.settings q.dir
        (Sys2Proof.Machine.segmentA s.site.settings q s.tbu.rate) (Sys2Proof.Machine.segmentB s.site.settings q s.tbu.rate)
        s.tbu.rate v) := by
      unfold State.settlementOf
      simp only [hv]
    have around (d : Nat) := timingSegment_cases s.site.settings q.dir
      (Sys2Proof.Machine.segmentA s.site.settings q s.tbu.rate) (Sys2Proof.Machine.segmentB s.site.settings q s.tbu.rate) d ⟨v, hv'⟩
    have hA' (t1 : Cycle) (h : q.t1 = some t1) : Sys2Proof.Machine.segmentA s.site.settings q s.tbu.rate =
        some (segmentOf 0 (s.site.settings.refDistance q.dir) s.tbu.rate t1 q.t2) := by
      rw [Sys2Proof.Machine.segmentA, h]
      rfl
    refine ⟨by rw [hc]; simp, by rw [hs]; simp, ?_, ?_⟩
    · intro n w hw
      rw [hc, List.getElem?_map, finRange_getElem?, Option.map_some, Option.some.injEq] at hw
      subst hw
      obtain ⟨k1, k2⟩ := around (distance (s.site.settings.cribs.get n) (s.site.settings.entryGate q.dir))
      unfold cribWindow
      dsimp only
      constructor
      · intro t1 ht hA
        rw [k1 _ (hA' t1 ht) (by cases hq : q.dir <;> rw [hq] at hA <;> exact hA)]
        cases hq : q.dir <;> exact ⟨rfl, rfl⟩
      · intro hA
        rw [k2 (by cases hq : q.dir <;> rw [hq] at hA <;> exact hA), Sys2Proof.Machine.segmentB]
        cases hq : q.dir <;> exact ⟨rfl, rfl⟩
    · intro n w hw
      rw [hs, List.getElem?_map, finRange_getElem?, Option.map_some, Option.some.injEq] at hw
      subst hw
      obtain ⟨k1, k2⟩ := around (distance (s.site.settings.scanners.get n) (s.site.settings.entryGate q.dir))
      unfold scanWindow
      dsimp only
      constructor
      · intro t1 ht hA
        rw [k1 _ (hA' t1 ht) (by cases hq : q.dir <;> rw [hq] at hA <;> exact hA)]
        cases hq : q.dir <;> exact ⟨rfl, rfl⟩
      · intro hA
        rw [k2 (by cases hq : q.dir <;> rw [hq] at hA <;> exact hA), Sys2Proof.Machine.segmentB]
        cases hq : q.dir <;> exact ⟨rfl, rfl⟩
  · intro hv
    rw [hA, hB] at hv
    have hv := hv.eq.symm
    unfold State.settlementOf
    simp [hv]

end Sys2Proof.Machine
end

