-- ==== Sys2Proof/Laws/Due.lean ====
section
/-!
SUPPORT. What the part does of itself: the events that `State.dueCommands` lists are those that `State.Due`
names.
-/

namespace Sys2Proof.Machine

open Sys2Proof

theorem mem_when {due : Bool} {c d : Instr} : c ∈ when_ due d ↔ due = true ∧ c = d := by
  cases due <;> simp [when_]

theorem detOf_surjective (d : Det) : ∃ i : Fin 5, detOf i = d := by
  cases d
  exacts [⟨0, rfl⟩, ⟨1, rfl⟩, ⟨2, rfl⟩, ⟨3, rfl⟩, ⟨4, rfl⟩]

theorem windowsComplete_iff (s : State) (f : Settlement) :
    s.windowsComplete f = true ↔ s.WindowsComplete f := by
  unfold State.windowsComplete State.WindowsComplete
  rw [Bool.and_eq_true, List.all_eq_true, List.all_eq_true]
  constructor
  · rintro ⟨h, k⟩
    refine ⟨fun i w hw => ?_, fun w hw => by simpa using k w hw⟩
    have := h (w, i) (by rw [List.mem_iff_getElem?]; exact ⟨i, by simp [List.getElem?_zipIdx, hw]⟩)
    simpa using this
  · rintro ⟨h, k⟩
    refine ⟨fun x hx => ?_, fun w hw => by simpa using k w hw⟩
    obtain ⟨j, hj⟩ := List.mem_iff_getElem?.1 hx
    rw [List.getElem?_zipIdx] at hj
    simp only [Option.map_eq_some_iff] at hj
    obtain ⟨w, hw, rfl⟩ := hj
    simpa using h _ w hw

theorem closingBelow_eq_false (s : State) (n : Word) :
    s.closingBelow n = false ↔
      ∀ b : Fin 4, (s.buffer b).state = .closing → below (s.buffer b).record.number n = false := by
  unfold State.closingBelow State.buffer
  rw [List.any_eq_false]
  constructor
  · intro h b hb
    have := h (s.tt.buffers.get b) (by
      rw [Vector.mem_toList_iff]; exact Vector.getElem_mem b.isLt)
    simpa [hb] using this
  · intro h x hx
    rw [Vector.mem_toList_iff] at hx
    obtain ⟨i, hi, rfl⟩ := Vector.getElem_of_mem hx
    by_cases hc : s.tt.buffers[i].state = .closing
    · have := h ⟨i, hi⟩ hc
      have this' : below (s.tt.buffers[i].record.number) n = false := this
      simp [this']
    · simp [hc]

theorem fits_iff (r : Reports) (size : Nat) :
    r.fits size = true ↔ unitsNeeded r.position size ≤ 5120 - r.unreleased := by
  unfold Reports.fits fillerFor unitsNeeded Reports.room journalUnits
  split <;> simp

theorem writable_iff (s : State) : s.writable.isSome = true ↔ s.HeadFits := by
  unfold State.writable State.HeadFits
  split
  case h_1 h rest hw hh =>
    rw [hw, hh]
    have hb := closingBelow_eq_false s h.header.number
    simp only [true_and]
    constructor
    · intro hs
      refine ⟨h, rest, rfl, ?_, ?_⟩
      · by_cases hc : s.closingBelow h.header.number = true
        · simp [hc] at hs
        · exact hb.1 (by simpa using hc)
      · split at hs
        · simp at hs
        · simp only [Option.isSome_map, Reports.formFor] at hs
          rw [← fits_iff, ← fits_iff]
          cases hbuf : h.buffer <;> simp [hbuf] at hs <;> simp
          · exact hs
          · by_cases hf : s.rpw.fits h.fullSize = true
            · exact .inl hf
            · simp [hf] at hs; exact .inr hs
    · rintro ⟨h', rest', heq, hlow, hfit⟩
      simp only [List.cons.injEq] at heq
      obtain ⟨rfl, rfl⟩ := heq
      rw [← fits_iff, ← fits_iff] at hfit
      rw [if_neg (by simp [hb.2 hlow])]
      simp only [Option.isSome_map, Reports.formFor]
      cases hbuf : h.buffer <;> simp [hbuf] at hfit ⊢
      · exact hfit
      · by_cases hf : s.rpw.fits h.fullSize = true
        · simp [hf]
        · simp only [hf, Bool.false_eq_true, if_false]
          rcases hfit with hfit | hfit
          · exact absurd hfit hf
          · simp [hfit]
  case h_2 hno =>
    simp only [Option.isSome_none, Bool.false_eq_true, false_iff]
    rintro ⟨hw, h, rest, hh, -⟩
    exact hno h rest hw hh

theorem frozen_eq_false (s : State) : s.frozen = false ↔ s.tt.tracker = .idle := by
  simp [State.frozen]

theorem mem_dueFrontEnd (s : State) (c : Instr) :
    c ∈ s.dueFrontEnd s.tbu.cycle → s.Due c := by
  simp only [State.dueFrontEnd, List.mem_append, List.mem_flatMap, mem_when, List.mem_finRange, true_and]
  rintro (((((((⟨h, rfl⟩ | ⟨h, rfl⟩) | ⟨h, rfl⟩) | ⟨h, rfl⟩) | ⟨i, h, rfl⟩) | ⟨i, h, rfl⟩) | ⟨i, h, rfl⟩) | ⟨h, rfl⟩)
  · simpa [State.Due, State.millisecondDue] using h
  · exact ⟨rfl, of_decide_eq_true h⟩
  · simp [State.baselineDue, baselineInterval, frozen_eq_false] at h
    exact ⟨rfl, h.1.1, h.1.2, h.2⟩
  · simp [State.ambientDue, updateInterval] at h
    exact ⟨rfl, h.1, h.2⟩
  · simp only [State.stuckDue, Bool.and_eq_true, beq_iff_eq, Option.any_eq_true] at h
    obtain ⟨t, ht, h'⟩ := h.2
    exact ⟨rfl, h.1, t, ht, of_decide_eq_true h'⟩
  · simp only [State.flatDue, Bool.and_eq_true, beq_iff_eq, Option.any_eq_true, Bool.not_eq_true', frozen_eq_false] at h
    obtain ⟨t, ht, h'⟩ := h.2
    exact ⟨rfl, h.1.2, h.1.1, t, ht, (State.ran_iff ..).1 h'⟩
  · simp only [State.linkDue, Bool.and_eq_true, beq_iff_eq] at h
    exact ⟨rfl, h.1, (State.ran_iff ..).1 h.2⟩
  · simp only [State.trimDue, Bool.and_eq_true, beq_iff_eq, Option.any_eq_true] at h
    obtain ⟨t, ht, h'⟩ := h.2
    exact ⟨rfl, h.1, t, ht, (State.ran_iff ..).1 h'⟩

theorem mem_dueTracker (s : State) (c : Instr) : c ∈ s.dueTracker s.tbu.cycle → s.Due c := by
  simp only [State.dueTracker, List.mem_append, mem_when]
  rintro ((⟨h, rfl⟩ | ⟨h, rfl⟩) | ⟨h, rfl⟩)
  · refine ⟨rfl, ?_⟩
    unfold State.approachDue at h
    split at h
    · next a ha => exact ⟨a, ha, (State.ran_iff ..).1 h⟩
    · cases h
  · refine ⟨rfl, ?_⟩
    simp only [State.quietDue, Option.any_eq_true] at h
    obtain ⟨r, hr, h⟩ := h
    split at h
    · next since left hq => exact ⟨r, since, left, hr, hq, (State.ran_iff ..).1 h⟩
    · cases h
  · refine ⟨rfl, ?_⟩
    simp only [State.openLimitDue, Option.any_eq_true] at h
    obtain ⟨r, hr, t, ht, h⟩ := h
    exact ⟨r, t, hr, ht, (State.ran_iff ..).1 h⟩

theorem mem_dueSettlement (s : State) (c : Instr) : c ∈ s.dueSettlement s.tbu.cycle → s.Due c := by
  simp only [State.dueSettlement, List.mem_append, List.mem_flatMap, mem_when, List.mem_finRange, true_and]
  rintro (((⟨h, rfl⟩ | ⟨h, rfl⟩) | ⟨h, rfl⟩) | ⟨b, h, rfl⟩)
  · simpa [State.Due, State.takeDue] using h
  · simp only [State.extractionDue, Option.any_eq_true, Bool.and_eq_true, Option.isNone_iff_eq_none,
      windowsComplete_iff] at h
    exact ⟨rfl, h⟩
  · simp only [State.settlementBound, Option.any_eq_true, State.ran_iff] at h
    obtain ⟨f, hf, x, hx, h⟩ := h
    exact ⟨rfl, f, x, hf, hx, h⟩
  · simpa [State.Due, State.closeDue] using h

theorem mem_dueAlarms (s : State) (c : Instr) : c ∈ s.dueAlarms s.tbu.cycle → s.Due c := by
  simp only [State.dueAlarms, List.mem_append, List.mem_flatMap, mem_when, List.mem_finRange, true_and]
  rintro (((⟨b, h, rfl⟩ | ⟨h, rfl⟩) | ⟨h, rfl⟩) | ⟨h, rfl⟩)
  · simp only [State.holdDue, Option.any_eq_true, Bool.and_eq_true, beq_iff_eq, decide_eq_true_eq] at h
    obtain ⟨r, hr, hs, d, hd, h⟩ := h
    exact ⟨rfl, r, d, hr, hs, hd, h⟩
  · simp only [State.ackDue, Option.any_eq_true, State.ran_iff] at h
    exact ⟨rfl, h⟩
  · simp only [State.pulseDue, Option.any_eq_true, State.ran_iff] at h
    exact ⟨rfl, h⟩
  · simp only [State.listenDue, Option.any_eq_true, State.ran_iff] at h
    exact ⟨rfl, h⟩

theorem mem_dueReports (s : State) (c : Instr) : c ∈ s.dueReports s.tbu.cycle → s.Due c := by
  simp only [State.dueReports, List.mem_append, mem_when]
  rintro (⟨h, rfl⟩ | ⟨h, rfl⟩)
  · exact ⟨rfl, (writable_iff s).1 h⟩
  · simp only [State.writeBound, Option.any_eq_true, State.ran_iff, Bool.and_eq_true, decide_eq_true_eq] at h
    exact ⟨rfl, h.2, h.1⟩

theorem mem_dueOrders (s : State) (c : Instr) : c ∈ s.dueOrders s.tbu.cycle → s.Due c := by
  simp only [State.dueOrders, List.mem_append, mem_when]
  rintro (((((⟨h, rfl⟩ | ⟨h, rfl⟩) | ⟨h, rfl⟩) | h) | ⟨h, rfl⟩) | ⟨h, rfl⟩)
  · unfold State.latchDue at h
    split at h
    · next n k w hw => exact ⟨rfl, by simpa using h, n, k, w, hw⟩
    · cases h
  · unfold State.disarmDue at h
    split at h
    · next n b hw => exact ⟨rfl, n, b, hw, by simpa using h⟩
    · cases h
  · simpa [State.Due, State.orderTakeDue] using h
  · unfold State.orderBound at h
    split at h
    · next o ho =>
      obtain ⟨hd, rfl⟩ := mem_when.1 h
      have hp : 10000 ≤ (s.tbu.cycle - o.takenAt).toNat := (State.ran_iff ..).1 hd
      unfold completionOf
      split <;> exact ⟨rfl, o, ho, by assumption, hp⟩
    · cases h
  · simp only [State.holdTimerDue, Option.any_eq_true, State.ran_iff] at h
    exact ⟨rfl, h⟩
  · simp [State.refreshDue, updateInterval] at h
    exact ⟨rfl, h.1.1.1, h.1.1.2, h.1.2, h.2⟩

/-- What is listed of a running part is due. -/
theorem due_of_mem_dueCommands (s : State) (c : Instr) (h : c ∈ s.dueCommands) : s.Due c := by
  unfold State.dueCommands at h
  split at h
  · cases h
  · simp only [List.mem_append] at h
    rcases h with ((((h | h) | h) | h) | h) | h
    exacts [mem_dueFrontEnd s c h, mem_dueTracker s c h, mem_dueSettlement s c h, mem_dueAlarms s c h,
      mem_dueReports s c h, mem_dueOrders s c h]

theorem mem_completionOf (o : RunningOrder) (s : State) (c : Instr) (h : c = completionOf o.kind s.tbu.cycle)
    (ho : s.ou.running = some o) (hp : 10000 ≤ (s.tbu.cycle - o.takenAt).toNat) :
    c ∈ s.dueOrders s.tbu.cycle := by
  have : c ∈ s.orderBound s.tbu.cycle := by
    unfold State.orderBound
    rw [ho]
    exact mem_when.2 ⟨(State.ran_iff ..).2 hp, h⟩
  simp only [State.dueOrders, List.mem_append]
  exact .inl (.inl (.inr this))

/-- What is due of a running part is listed. -/
theorem mem_dueCommands_of_due (s : State) (hr : s.Running) (c : Instr) (h : s.Due c) : c ∈ s.dueCommands := by
  have hmem : c ∈ s.dueFrontEnd s.tbu.cycle ∨ c ∈ s.dueTracker s.tbu.cycle ∨ c ∈ s.dueSettlement s.tbu.cycle ∨
      c ∈ s.dueAlarms s.tbu.cycle ∨ c ∈ s.dueReports s.tbu.cycle ∨ c ∈ s.dueOrders s.tbu.cycle := by
    cases c
    case elementEdge | pointComplete | scannerFrame | secondPulse | ackEdge | releaseWrite | postWrite | attnRead
      | attnMaskWrite | siteReset | fullReset | powerReset | droppedWrite | hostStore => exact h.elim
    case arm | disarm | setTime | attachConsist | dropConsist | decideAlarm | clearStop | holdLive | releaseLive
      | peekTrain | setChannelService | unknownKind =>
      obtain ⟨rfl, o, ho, hk, hp⟩ := h
      refine .inr (.inr (.inr (.inr (.inr (mem_completionOf o s _ ?_ ho hp)))))
      unfold completionOf
      rw [hk]
    case stuckTimerExpiry n d =>
      left
      obtain ⟨rfl, h1, t, ht, h2⟩ := h
      obtain ⟨i, rfl⟩ := detOf_surjective d
      have hd : s.stuckDue (detOf i) = true := by
        simp only [State.stuckDue, ht, h1, beq_self_eq_true, Option.any_some, Bool.true_and]
        exact decide_eq_true h2
      simp only [State.dueFrontEnd, List.mem_append, List.mem_flatMap, mem_when, List.mem_finRange, true_and]
      exact .inl (.inl (.inl (.inr ⟨i, hd, rfl⟩)))
    case millisecondTick | slotComplete | baselineUpdate | ambientUpdate | flatRunExpiry
      | linkTimerExpiry | trimLost =>
      left
      simp only [State.dueFrontEnd, List.mem_append, List.mem_flatMap, mem_when, List.mem_finRange, true_and,
        reduceCtorEq, and_false, or_false, false_or, exists_false, Instr.millisecondTick.injEq,
        Instr.slotComplete.injEq, Instr.baselineUpdate.injEq, Instr.ambientUpdate.injEq, Instr.trimLost.injEq,
        Instr.flatRunExpiry.injEq, Instr.linkTimerExpiry.injEq]
      first
        | exact ⟨decide_eq_true h.2, h.1⟩
        | (obtain ⟨rfl, h1, h2, h3⟩ := h
           exact ⟨by simp [State.baselineDue, baselineInterval, frozen_eq_false, h1, h2, h3], rfl⟩)
        | (obtain ⟨rfl, h1, h2⟩ := h
           exact ⟨by simp [State.ambientDue, updateInterval, h1, h2], rfl⟩)
        | (obtain ⟨rfl, h1, t, ht, h2⟩ := h
           exact ⟨by simp only [State.trimDue, ht, h1, beq_self_eq_true, Option.any_some, (State.ran_iff ..).2 h2, Bool.and_self],
             rfl⟩)
        | (obtain ⟨rfl, h0, h1, t, ht, h2⟩ := h
           exact ⟨_, by simp only [State.flatDue, (frozen_eq_false s).2 h0, ht, h1, beq_self_eq_true, Option.any_some, Bool.not_false, (State.ran_iff ..).2 h2, Bool.and_self],
             rfl, rfl⟩)
        | (obtain ⟨rfl, h1, h2⟩ := h
           exact ⟨_, by simp only [State.linkDue, h1, beq_self_eq_true, (State.ran_iff ..).2 h2, Bool.and_self], rfl, rfl⟩)
    case approachTimeout | quietTimeout | openLimitExpiry =>
      right; left
      simp only [State.dueTracker, List.mem_append, mem_when, reduceCtorEq, and_false, or_false, false_or,
        Instr.approachTimeout.injEq, Instr.quietTimeout.injEq, Instr.openLimitExpiry.injEq]
      first
        | (obtain ⟨rfl, a, ha, h1⟩ := h
           exact ⟨by unfold State.approachDue; rw [ha]; exact (State.ran_iff ..).2 h1, rfl⟩)
        | (obtain ⟨rfl, r, since, left, hr, hq, h1⟩ := h
           exact ⟨by unfold State.quietDue; rw [hr, Option.any_some, hq]; exact (State.ran_iff ..).2 h1, rfl⟩)
        | (obtain ⟨rfl, r, t, hr, ht, h1⟩ := h
           exact ⟨by unfold State.openLimitDue; rw [hr, Option.any_some, ht]; exact (State.ran_iff ..).2 h1, rfl⟩)
    case settlementTake | extraction | settlementComplete | closeComputations =>
      right; right; left
      simp only [State.dueSettlement, List.mem_append, List.mem_flatMap, mem_when, List.mem_finRange, true_and,
        reduceCtorEq, and_false, or_false, false_or, exists_false, Instr.settlementTake.injEq,
        Instr.extraction.injEq, Instr.settlementComplete.injEq, Instr.closeComputations.injEq]
      first
        | (obtain ⟨rfl, h1, h2⟩ := h; exact ⟨by simp [State.takeDue, h1, h2], rfl⟩)
        | (obtain ⟨rfl, f, hf, h1, h2⟩ := h
           exact ⟨by simp [State.extractionDue, hf, h1, (windowsComplete_iff s f).2 h2], rfl⟩)
        | (obtain ⟨rfl, f, x, hf, hx, h2⟩ := h
           exact ⟨by rw [State.settlementBound, hf, Option.any_some, hx, Option.any_some]; exact (State.ran_iff ..).2 h2, rfl⟩)
        | (obtain ⟨rfl, h1, h2⟩ := h; exact ⟨_, by simp [State.closeDue, h1, h2], rfl, rfl⟩)
    case holdExpiry | ackTimeout | pulseTimerExpiry | listenTimerExpiry =>
      right; right; right; left
      simp only [State.dueAlarms, List.mem_append, List.mem_flatMap, mem_when, List.mem_finRange, true_and,
        reduceCtorEq, and_false, or_false, false_or, exists_false, Instr.holdExpiry.injEq,
        Instr.ackTimeout.injEq, Instr.pulseTimerExpiry.injEq, Instr.listenTimerExpiry.injEq]
      first
        | (obtain ⟨rfl, t, ht, h1⟩ := h
           exact ⟨by rw [State.ackDue, ht, Option.any_some]; exact (State.ran_iff ..).2 h1, rfl⟩)
        | (obtain ⟨rfl, t, ht, h1⟩ := h
           exact ⟨by rw [State.pulseDue, ht, Option.any_some]; exact (State.ran_iff ..).2 h1, rfl⟩)
        | (obtain ⟨rfl, t, ht, h1⟩ := h
           exact ⟨by rw [State.listenDue, ht, Option.any_some]; exact (State.ran_iff ..).2 h1, rfl⟩)
        | (obtain ⟨rfl, r, d, hr, hs, hd, h1⟩ := h
           exact ⟨_, by simp [State.holdDue, hr, hs, hd, h1], rfl, rfl⟩)
    case reportWriteStart | reportWriteComplete =>
      right; right; right; right; left
      simp only [State.dueReports, List.mem_append, mem_when, reduceCtorEq, and_false, or_false, false_or,
        Instr.reportWriteStart.injEq, Instr.reportWriteComplete.injEq]
      first
        | exact ⟨(writable_iff s).2 h.2, h.1⟩
        | (obtain ⟨rfl, h1, w, hw, h2⟩ := h
           refine ⟨?_, rfl⟩
           rw [State.writeBound, hw, Option.any_some, Bool.and_eq_true]
           exact ⟨(State.ran_iff ..).2 h2, decide_eq_true h1⟩)
    case waitingArmLatch | waitingDisarmComplete | orderTake | holdTimerExpiry | liveRefresh =>
      right; right; right; right; right
      simp only [State.dueOrders, List.mem_append, mem_when, reduceCtorEq, and_false, or_false, false_or,
        Instr.waitingArmLatch.injEq, Instr.waitingDisarmComplete.injEq, Instr.orderTake.injEq,
        Instr.holdTimerExpiry.injEq, Instr.liveRefresh.injEq]
      first
        | (obtain ⟨rfl, h1, k, a, b, hw⟩ := h
           exact .inl ⟨by unfold State.latchDue; rw [hw]; simp [h1], rfl⟩)
        | (obtain ⟨rfl, k, b, hw, h1⟩ := h
           exact .inl ⟨by unfold State.disarmDue; rw [hw]; simp [h1], rfl⟩)
        | (obtain ⟨rfl, h1, h2⟩ := h
           exact .inl ⟨by simp [State.orderTakeDue, h1, h2], rfl⟩)
        | (obtain ⟨rfl, t, ht, h1⟩ := h
           exact .inr ⟨by rw [State.holdTimerDue, ht, Option.any_some]; exact (State.ran_iff ..).2 h1, rfl⟩)
        | (obtain ⟨rfl, h1, h2, h3, h4⟩ := h
           exact .inr ⟨by simp [State.refreshDue, updateInterval, h2, h3, h4]; exact h1, rfl⟩)
  unfold State.dueCommands
  rw [if_neg (by simp [hr])]
  simp only [List.mem_append, or_assoc]
  exact hmem

/-- The events of the part's own that `dueCommands` lists are those that are due. -/
theorem mem_dueCommands (s : State) (hr : s.Running) (c : Instr) : c ∈ s.dueCommands ↔ s.Due c :=
  ⟨due_of_mem_dueCommands s c, mem_dueCommands_of_due s hr c⟩

end Sys2Proof.Machine
end

