-- ==== Sys2Proof/Laws/Site.lean ====
section
/-!
SUPPORT. The site reset: what ending every order does, once, that the CLOSING buffers stand in increasing train
number, and which bytes of the memory a close leaves alone.
-/

namespace Sys2Proof.Machine

open Sys2Proof

/-! ### Ending the orders (R169) -/

/-- The bytes of the words that the part writes in a slot's head (R195). -/
abbrev slotByte (n : Fin 16) (a : Nat) : Prop :=
  (slotBase n + 0x04 ≤ a ∧ a < slotBase n + 0x0C) ∨ (slotBase n + 0x20 ≤ a ∧ a < slotBase n + 0x28)

/-- The order of a slot is QUEUED, RUNNING or WAITING. -/
abbrev State.slotBusy (s : State) (n : Fin 16) : Prop :=
  (s.ou.slots.get n).state ≠ .idle ∧ (s.ou.slots.get n).state ≠ .done

/-- Two memories that agree on a slot's words, and two states that agree on the slot, show the slot alike. -/
theorem State.ShowsSlot.congr {s t : State} {n : Fin 16} (h : s.ShowsSlot n)
    (hs : t.ou.slots.get n = s.ou.slots.get n) (hm : ∀ a, slotByte n a → t.mem.readByte a = s.mem.readByte a) :
    t.ShowsSlot n := by
  have word (k : Nat) (hk : ∀ i, i < 4 → slotByte n (k + i)) : t.mem.readWord k = s.mem.readWord k := by
    unfold Memory.readWord
    rw [show t.mem.readByte k = s.mem.readByte k from hm _ (hk 0 (by omega)), hm _ (hk 1 (by omega)),
      hm _ (hk 2 (by omega)), hm _ (hk 3 (by omega))]
  unfold State.ShowsSlot at h ⊢
  rw [hs, word _ (fun i hi => .inl ⟨by omega, by omega⟩), word _ (fun i hi => .inl ⟨by omega, by omega⟩),
    word _ (fun i hi => .inr ⟨by omega, by omega⟩), word _ (fun i hi => .inr ⟨by omega, by omega⟩)]
  exact h

/-- What ending the order of one slot does: nothing to an IDLE or DONE slot, and otherwise its completion. -/
theorem State.abortSlot_cases (s : State) (n : Fin 16) :
    (¬s.slotBusy n ∧ s.abortSlot n = s) ∨ (s.slotBusy n ∧ s.CompletedSlot (s.abortSlot n) n .aborted 0 0) := by
  unfold State.abortSlot State.slotBusy
  split
  · next h => exact .inl ⟨by simp [h], rfl⟩
  · next h => exact .inl ⟨by simp [h], rfl⟩
  · next h1 h2 => exact .inr ⟨⟨h1, h2⟩, (State.finishSlot_spec s n .aborted 0 0).1⟩

/-- What ending the orders of some slots, each named once, does. -/
theorem State.abortAll_spec (ns : List (Fin 16)) : ∀ (s : State), ns.Nodup →
    let t := ns.foldl State.abortSlot s
    t = { s with ou := t.ou, mem := t.mem, atu := t.atu } ∧
    (∀ n ∈ ns, s.slotBusy n → t.ou.slots.get n = { s.ou.slots.get n with
      state := .done, outcome := .aborted, result1 := 0, result2 := 0 } ∧ t.ShowsSlot n) ∧
    (∀ n : Fin 16, ¬(n ∈ ns ∧ s.slotBusy n) → t.ou.slots.get n = s.ou.slots.get n) ∧
    (∀ a : Nat, (∀ n ∈ ns, s.slotBusy n → ¬slotByte n a) → t.mem.readByte a = s.mem.readByte a) ∧
    ((∃ n ∈ ns, s.slotBusy n) → t.atu = { s.atu with pending := s.atu.pending ||| 0x08#8 }) ∧
    ((∀ n ∈ ns, ¬s.slotBusy n) → t.atu = s.atu) := by
  induction ns with
  | nil => exact fun s _ => ⟨rfl, by simp, fun _ _ => rfl, fun _ _ => rfl, by simp, fun _ => rfl⟩
  | cons n ns ih =>
    intro s hn
    obtain ⟨fresh, hn⟩ := List.nodup_cons.1 hn
    rw [List.foldl_cons]
    have rest := ih (s.abortSlot n) hn
    rcases State.abortSlot_cases s n with ⟨idle, h⟩ | ⟨busy, done⟩
    · rw [h] at rest ⊢
      obtain ⟨e, r1, r2, r3, r4, r5⟩ := rest
      have other {k : Fin 16} (hk : k ∈ n :: ns) (b : s.slotBusy k) : k ∈ ns :=
        (List.mem_cons.1 hk).resolve_left (fun c => idle (c ▸ b))
      exact ⟨e, fun k hk b => r1 k (other hk b) b,
        fun k hk => r2 k (fun c => hk ⟨List.mem_cons_of_mem _ c.1, c.2⟩),
        fun a ha => r3 a (fun k hk => ha k (List.mem_cons_of_mem _ hk)),
        fun ⟨k, hk, b⟩ => r4 ⟨k, other hk b, b⟩, fun c => r5 (fun k hk => c k (List.mem_cons_of_mem _ hk))⟩
    · generalize s.abortSlot n = v at rest done ⊢
      obtain ⟨e, r1, r2, r3, r4, r5⟩ := rest
      obtain ⟨d1, d2, d3, d4, d5, d6, d7⟩ := done
      have kept {k : Fin 16} (hk : k ∈ ns) : v.ou.slots.get k = s.ou.slots.get k :=
        d3 k (fun c => fresh (c ▸ hk))
      have busy_iff {k : Fin 16} (hk : k ∈ ns) : v.slotBusy k ↔ s.slotBusy k := by
        unfold State.slotBusy
        rw [kept hk]
      have pending : v.atu.pending ||| 0x08#8 = v.atu.pending := by
        rw [d5, BitVec.or_assoc, BitVec.or_self]
      have atu : (ns.foldl State.abortSlot v).atu = v.atu := by
        by_cases c : ∃ k ∈ ns, v.slotBusy k
        · rw [r4 c, pending]
        · exact r5 (fun k hk b => c ⟨k, hk, b⟩)
      have ended : ¬(n ∈ ns ∧ v.slotBusy n) := fun c => fresh c.1
      refine ⟨?_, ?_, ?_, ?_, fun _ => atu.trans d5, fun c => absurd busy (c n (List.mem_cons_self ..))⟩
      · refine e.trans ?_
        generalize ns.foldl State.abortSlot v = t
        rw [d1]
      · intro k hk b
        rcases List.mem_cons.1 hk with rfl | hk
        · refine ⟨(r2 k ended).trans d2, d7.congr (r2 k ended) (fun a ha => r3 a ?_)⟩
          intro j hj _ hb
          have : j.val ≠ k.val := fun c => fresh (Fin.ext c ▸ hj)
          unfold slotByte slotBase at *
          omega
        · rw [← kept hk]
          exact r1 k hk ((busy_iff hk).2 b)
      · intro k hk
        by_cases c : k ∈ ns
        · rw [r2 k (fun x => hk ⟨List.mem_cons_of_mem _ c, (busy_iff c).1 x.2⟩), kept c]
        · rw [r2 k (fun x => c x.1)]
          exact d3 k (fun x => hk ⟨x ▸ List.mem_cons_self .., x ▸ busy⟩)
      · intro a ha
        rw [r3 a (fun k hk b => ha k (List.mem_cons_of_mem _ hk) ((busy_iff hk).1 b))]
        have := ha n (List.mem_cons_self ..) busy
        exact d6 a (fun c => this (.inl c)) (fun c => this (.inr c))

/-- What ending every order and the live hold does (R169, R180). -/
theorem State.abortOrders_spec (s : State) :
    s.EndsOrders { s.abortOrders with lvu := { s.abortOrders.lvu with hold := none } } := by
  have spec := State.abortAll_spec (List.finRange 16) s (List.nodup_finRange 16)
  unfold State.abortOrders
  generalize (List.finRange 16).foldl State.abortSlot s = t at spec ⊢
  obtain ⟨e, r1, r2, r3, r4, r5⟩ := spec
  refine ⟨?_, fun n b => r1 n (List.mem_finRange n) b, fun n b => r2 n (fun c => b c.2),
    fun a ha => r3 a (fun n _ b c => ?_), fun ⟨n, b⟩ => r4 ⟨n, List.mem_finRange n, b⟩,
    fun c => r5 (fun n _ => c n)⟩
  · simp only []
    rw [e]
  · obtain ⟨h1, h2⟩ := ha n b
    exact c.elim h1 h2

/-! ### The CLOSING buffers in train order (R47) -/

theorem below_asymm {a b : Word} (h : below a b = true) : below b a = false := by
  unfold below at *
  simp only [Bool.and_eq_true, decide_eq_true_eq, Bool.and_eq_false_iff, decide_eq_false_iff_not] at *
  bv_omega

theorem mem_insertByTrain (s : State) (b a : Fin 4) (l : List (Fin 4)) :
    a ∈ insertByTrain s b l ↔ a = b ∨ a ∈ l := by
  induction l with
  | nil => simp [insertByTrain]
  | cons x l ih =>
    unfold insertByTrain
    split
    · simp only [List.mem_cons, ih]
      tauto
    · simp

theorem nodup_insertByTrain (s : State) (b : Fin 4) (l : List (Fin 4)) (h : l.Nodup) (hb : b ∉ l) :
    (insertByTrain s b l).Nodup := by
  induction l with
  | nil => simp [insertByTrain]
  | cons x l ih =>
    obtain ⟨hx, hl⟩ := List.nodup_cons.1 h
    obtain ⟨hbx, hbl⟩ : b ≠ x ∧ b ∉ l := by simpa using hb
    unfold insertByTrain
    split
    · refine List.nodup_cons.2 ⟨fun c => ?_, ih hl hbl⟩
      rcases (mem_insertByTrain s b x l).1 c with c | c
      · exact hbx c.symm
      · exact hx c
    · exact List.nodup_cons.2 ⟨hb, h⟩

/-- Of two neighbours in the list the latter is not below the former. -/
abbrev InTrainOrder (s : State) (l : List (Fin 4)) : Prop :=
  l.IsChain (fun a b => below (s.buffer b).record.number (s.buffer a).record.number = false)

theorem insertByTrain_inTrainOrder (s : State) (b : Fin 4) (l : List (Fin 4)) (h : InTrainOrder s l) :
    InTrainOrder s (insertByTrain s b l) := by
  induction l with
  | nil => simp [insertByTrain, InTrainOrder]
  | cons x l ih =>
    unfold insertByTrain
    split
    · next hb =>
      have tail := ih h.tail
      cases l with
      | nil => simpa [insertByTrain, InTrainOrder] using below_asymm hb
      | cons y l =>
        unfold insertByTrain at tail ⊢
        unfold InTrainOrder at *
        split
        · next hy =>
          rw [if_pos hy] at tail
          exact List.isChain_cons_cons.2 ⟨(List.isChain_cons_cons.1 h).1, tail⟩
        · next hy =>
          rw [if_neg hy] at tail
          exact List.isChain_cons_cons.2 ⟨below_asymm hb, tail⟩
    · next hb => exact List.isChain_cons_cons.2 ⟨by simpa using hb, h⟩

/-- The CLOSING buffers, each once, in increasing train number (R47). -/
theorem State.closingBuffers_spec (s : State) :
    s.closingBuffers.Nodup ∧ (∀ b, b ∈ s.closingBuffers ↔ (s.buffer b).state = .closing) ∧
      InTrainOrder s s.closingBuffers := by
  have key (l : List (Fin 4)) (h : l.Nodup) : (l.foldr (insertByTrain s) []).Nodup ∧
      (∀ b, b ∈ l.foldr (insertByTrain s) [] ↔ b ∈ l) ∧ InTrainOrder s (l.foldr (insertByTrain s) []) := by
    induction l with
    | nil => simp [InTrainOrder]
    | cons x l ih =>
      obtain ⟨hx, hl⟩ := List.nodup_cons.1 h
      obtain ⟨i1, i2, i3⟩ := ih hl
      rw [List.foldr_cons]
      refine ⟨nodup_insertByTrain s x _ i1 (fun c => hx ((i2 x).1 c)), fun b => ?_,
        insertByTrain_inTrainOrder s x _ i3⟩
      rw [mem_insertByTrain, i2, List.mem_cons]
  obtain ⟨k1, k2, k3⟩ := key ((List.finRange 4).filter (fun b => (s.buffer b).state == .closing))
    ((List.nodup_finRange 4).filter _)
  exact ⟨k1, fun b => (k2 b).trans (by simp), k3⟩

/-! ### The bytes of the memory that a close leaves alone (R154) -/

/-- The journal's words of the site header are WRITE_SEQ and those from 0x08 to 0x1F. -/
theorem State.showJournal_outside (s : State) {a : Nat} (h : (4 ≤ a ∧ a < 8) ∨ 0x20 ≤ a) :
    s.showJournal.mem.readByte a = s.mem.readByte a := by
  have header : s.rpw.headerWords.length = 6 := rfl
  unfold State.showJournal
  rw [State.put_readByte_outside _ _ _ _ (by simp only [headerBase, List.length_cons, List.length_nil]; omega),
    State.put_readByte_outside _ _ _ _ (by rw [header]; simp only [headerBase]; omega)]

/-- A report's joining of the held queue writes the journal's words. -/
theorem State.joinBuffer_outside (s : State) (b : Fin 4) {a : Nat} (h : (4 ≤ a ∧ a < 8) ∨ 0x20 ≤ a) :
    (s.joinBuffer b).mem.readByte a = s.mem.readByte a := by
  unfold State.joinBuffer State.alterReports
  simp only []
  rw [State.showJournal_outside _ h]
  rfl

/-- The BEARING_DIFF check writes mirrors and the stop line's words. -/
theorem State.checkBearings_outside (s : State) (b : Fin 4) :
    s.mem.SameButBoard (s.checkBearings b).mem (fun _ => True) := by
  unfold State.checkBearings
  exact State.raiseAll_outside _ s

/-- The close of a buffer writes the journal's words, the stop line's words and mirrors. -/
theorem State.closeBuffer_outside (s : State) (b : Fin 4) {a : Nat}
    (h : (4 ≤ a ∧ a < 8) ∨ (0x20 ≤ a ∧ a < 0x28) ∨ (0x30 ≤ a ∧ a < 0x2200) ∨ 0x2A00 ≤ a) :
    (s.closeBuffer b).mem.readByte a = s.mem.readByte a := by
  have mirrors (p : Fin 32) : a < mirrorBase p ∨ mirrorBase p + 0x40 ≤ a := by
    have := p.isLt
    unfold mirrorBase
    omega
  unfold State.closeBuffer
  simp only []
  rw [State.joinBuffer_outside _ b (by omega), State.alterBuffer_mem,
    State.checkBearings_outside _ b a (by omega) (fun p _ => mirrors p)]
  rfl

end Sys2Proof.Machine
end

