-- ==== Sys2Proof/Tests/Slice0.lean ====
section
/-!
SUPPORT. Tests: ill-formed commands that `WellFormed` refuses, worked examples of the manual, and for every
statement with hypotheses a concrete state and operands that meet them, at the boundaries of its clauses.
-/

namespace Sys2Proof.Machine

open Sys2Proof

/-! ### Small states -/

/-- The state a command leaves. -/
def after (c : Instr) (s : State) : State :=
  match exec c s with
  | .next t => t
  | _ => s

/-- The part in WATCH, otherwise as after reset. -/
def watching : State := { State.reset with site := { State.reset.site with mode := .watch } }

/-- A state with one detector replaced. -/
def withDetector (d : Det) (x : Detector) (s : State) : State := s.alterDetector d (fun _ => x)

/-- A detector whose next uncovering edge ends a crossing with time 700. -/
def leaving : Dir → Detector
  | .east => ⟨.oneE, some .west, some 700, none, .inService⟩
  | .west => ⟨.oneW, some .east, some 700, none, .inService⟩

/-- A detector with a wheel standing over it. -/
def covered : Detector := ⟨.both, some .west, none, none, .inService⟩

/-- A state with train 1 open in buffer 0. -/
def withTrain (r : TrainRecord) (axles : List AxleEntry) (s : State) : State :=
  { s with tt := { s.tt with
      tracker := .opened
      trainNumber := 1
      buffers := alter s.tt.buffers 0 (fun b =>
        { b with state := .opened, record := { r with number := 1 }, axles := axles }) } }

/-- A state with train 1 open as a count-only train. -/
def withCountOnly (r : TrainRecord) (s : State) : State :=
  { s with tt := { s.tt with
      tracker := .opened, trainNumber := 1, countOnly := some ⟨{ r with number := 1 }, none⟩ } }

/-- `OpenTrain` of a train in buffer 0, in words that `decide` reads. -/
abbrev OpenInBuffer (s : State) (r : TrainRecord) (axles : List AxleEntry) : Prop :=
  s.tt.tracker = .opened ∧ (∀ a : Fin 4, (s.buffer a).state = .opened ↔ a = 0) ∧ s.tt.countOnly = none ∧
    (s.buffer 0).record = r ∧ (s.buffer 0).axles = axles

theorem openInBuffer_iff (s : State) (r : TrainRecord) (axles : List AxleEntry) :
    OpenInBuffer s r axles ↔ s.OpenTrain (some 0) r axles := Iff.rfl

/-- `OpenTrain` of a count-only train, in words that `decide` reads. -/
abbrev OpenCountOnly (s : State) (r : TrainRecord) : Prop :=
  s.tt.tracker = .opened ∧ (∀ a : Fin 4, (s.buffer a).state ≠ .opened) ∧ s.tt.countOnly.map (·.record) = some r ∧
    ([] : List AxleEntry) = []

theorem openCountOnly_iff (s : State) (r : TrainRecord) :
    OpenCountOnly s r ↔ s.OpenTrain none r [] := Iff.rfl

/-- A state with one buffer in a given state, holding a given train. -/
def withBuffer (b : Fin 4) (st : BufferState) (train : Word) (s : State) : State :=
  s.alterBuffer b (fun x => { x with state := st, record := { x.record with number := train } })

/-- A record with `f` axles past the gate out of `n` entries, `x` of them past the exit gate. -/
def counts (n f x : Nat) : TrainRecord := { TrainRecord.blank with entries := n, f := f, x := x }

/-- An axle entry on run 1 with T1 and T2. -/
def axle : AxleEntry := AxleEntry.created .entered ⟨1, some 100, some 400, none, false, false⟩

/-- A state with an order of a kind and arguments RUNNING in slot 3. -/
def ordering (kind a1 a2 a3 : Word) (s : State) : State :=
  { s with ou := { s.ou with
      slots := alter s.ou.slots 3 (fun x => { x with state := .running, ticket := 9 })
      running := some ⟨3, kind, a1, a2, a3, 0, 0⟩ } }

/-- The order that `ordering` has RUNNING. -/
def order (kind a1 a2 a3 : Word) : RunningOrder := ⟨3, kind, a1, a2, a3, 0, 0⟩

/-- An alarm record in a given state. -/
def alarmRecord (id : Nat) (st : RecordState) (deadline : Option SiteTime) : AlarmRecord :=
  ⟨id, st, .stop, .hotBearing, 412, 37, .b, 912, 900, 0, deadline, false, .none⟩

/-- A state with a record at a board position. -/
def withRecord (p : Fin 32) (r : AlarmRecord) (s : State) : State :=
  { s with ab := { s.ab with
      positions := s.ab.positions.set p.val (some r) p.isLt, order := s.ab.order ++ [p] } }

/-- A state with the stop line as given. -/
def withLine (l : StopLine) (s : State) : State := { s with sli := l }

/-- The stop line after reset in PULSE mode, in a phase. -/
def pulseLine (phase : Phase) : StopLine := { StopLine.reset with mode := .pulse, phase := phase }

/-! ### Ill-formed commands -/

theorem test_wf_edge_too_short : WellFormed (.elementEdge 2999 .g1 .e1 true 1000) = false := by decide
theorem test_wf_edge_of_the_future : WellFormed (.elementEdge 1000 .g1 .e1 true 4000) = false := by decide
theorem test_wf_edge_held : WellFormed (.elementEdge 3000 .g1 .e1 true 1000) = true := by decide
theorem test_wf_point_of_three : WellFormed (.pointComplete 0 0 [1, 2, 3]) = false := by decide
theorem test_wf_point_of_two : WellFormed (.pointComplete 0 0 [1, 2]) = true := by decide
theorem test_wf_ack_too_short : WellFormed (.ackEdge 9999 true 0) = false := by decide
theorem test_wf_store_to_ticket : WellFormed (.hostStore 0 0x81 5) = false := by decide
theorem test_wf_store_to_kind : WellFormed (.hostStore 0 0x83 5) = true := by decide
theorem test_wf_dropped_site_reset : WellFormed (.droppedWrite 0 0x10003 1) = false := by decide
theorem test_wf_dropped_site_code : WellFormed (.droppedWrite 0 0x10003 3) = true := by decide
theorem test_wf_dropped_store : WellFormed (.droppedWrite 0 0xB00 3) = false := by decide

/-! ### Worked examples of the manual -/

/-- Section 1.2, the wheel that rocks on G2: the candidate is the last leaving of BOTH. -/
theorem test_edge_leaves_both :
    (after (.elementEdge 9622000 .g2 .e2 false 9620000)
      (withDetector .g2 ⟨.both, some .west, some 1009000, none, .inService⟩ State.reset)).detector .g2 =
      ⟨.oneW, some .west, some 9620000, none, .inService⟩ := by decide

/-- Section 1.2, the last edge: the crossing at G2 is EAST at 14,305,000. -/
theorem test_edge_emits :
    (Detector.emits ⟨.oneE, some .west, some 14305000, none, .inService⟩ .e2 false) =
      some (.east, 14305000) := by decide

/-- Section 1.3, the baseline example. -/
theorem test_baseline_steps : baselineStep 30720 130 = 30730 ∧ baselineStep 30730 100 = 30710 := by decide

/-- Section 1.3: an ambient of 12,800 takes a sample of 203. -/
theorem test_ambient_step : ambientStep 12800 203 = 12803 := by decide

/-- R9: a mean that ends in a half rounds up, also below zero. -/
theorem test_point_rounds_half_up : pointValue [-1, -2] = -1 ∧ pointValue [1, 2] = 2 := by decide

/-- Section 1.5, the trim example: the second pulse comes 10,000,400 cycles after the first. -/
theorem test_second_pulse :
    (after (.secondPulse 16000400) (after (.secondPulse 6000000) State.reset)).tbu.rate = 10000400 := by
  decide

/-- R22: an untrimmed part does not lose its trim. -/
theorem test_trim_none_stays : (after (.trimLost 40000000) State.reset).tbu.trim = .none := by decide

/-- R23: 10,000 cycles at the rate after reset are one millisecond. -/
theorem test_millisecond : (after (.millisecondTick 10000) State.reset).tbu.siteTime = 1 := by decide

/-- R7: the stuck limit of 120 s is passed one cycle after 1,200,000,000 cycles. -/
theorem test_stuck_limit :
    let s := withDetector .apW ⟨.oneW, some .west, none, some 0, .inService⟩ State.reset
    ((after (.stuckTimerExpiry 1200000000 .apW) s).detector .apW).service = .inService ∧
      ((after (.stuckTimerExpiry 1200000001 .apW) s).detector .apW).service = .stuck := by decide

/-- Chapter 2, event 9: a reverse crossing of G2 stages the axle without time and backs its entry. -/
theorem test_backed_over_reference :
    refReverse false ⟨{ counts 3 3 1 with staging := [some 6] }, [axle, axle, axle], true⟩ =
      ⟨{ counts 3 2 1 with staging := [none, some 6] },
        [axle, axle, { axle with state := .backed }], true⟩ := by decide

/-- Chapter 2, event 13: the entry is re-entered on run 2 as a two-gate run. -/
theorem test_reentered_two_gate :
    (refForward false 13 ⟨{ counts 3 1 1 with staging := [none] }, [axle, axle, axle], true⟩).axles[1]? =
      some { axle with revisits := 1, run := ⟨2, none, some 13, none, false, true⟩ } := by decide

/-- Section 3.8: both segments run at 16,667 mm/s. -/
theorem test_segment_speed : segmentSpeed 3000 1800000 10000400 = .valid 16667 := by decide

/-- Section 3.8: crib 5 of the example, at distance 3300, has the points 200,945 to 201,035. -/
theorem test_crib_window :
    let b := segmentOf 3000 3000 10000400 401800000 403600000
    let a := segmentOf 0 3000 10000400 400000000 401800000
    cribWindow Settings.defaults .east (some a) b 4 = ⟨200945, 201035⟩ := by decide

/-- Section 3.8: rail A has 1484, rail B has 1502. -/
theorem test_wheel_loads :
    wheelLoad [1470, 1493, 1487, 2842, 1479, 1461, 1496, 1481] = some 1484 ∧
      wheelLoad [1495, 1500, 1503, 1498, 1509, 1510, 1489, 1504] = some 1502 := by decide

/-- Section 3.8: a peak of 9900 under the gain 18,816 is a crib load of 2842. -/
theorem test_crib_load : cribLoadOf 9900 18816 = 2842 := by decide

/-- Section 3.8: the flat judgement of rail A is a WARN of 1358 against 700. -/
theorem test_flat_judgement :
    judgeFlat Settings.defaults (some 16667) false
      ⟨some 1484, some 2842, some 1358, some 490, 8, false, false, false, false⟩ =
      some ⟨.warn, 1358, 700⟩ := by decide

/-- R75, R76: a window with two samples is invalid for want of samples; three samples give the rise. -/
theorem test_rises :
    riseOf Settings.defaults (some 20000) true (some ⟨false, [some 700, none, some 250], some 200⟩) =
        .invalid .samples ∧
      riseOf Settings.defaults (some 20000) true (some ⟨false, [some 700, some 250, some 230], some 200⟩) =
        .valid 500 := by decide

/-- Section 5.3: the runs of the example's consist train become five bogies. -/
theorem test_bogies :
    bogieIndices 1 [2, 2, 2, 4, 2] = [1, 1, 2, 2, 3, 3, 4, 4, 4, 4, 5, 5] ∧
      bogieIndices 1 [2, 1, 1, 2] = [1, 1, 0, 0, 2, 2] := by decide

/-- Chapter 6, the example at 1,001,200: DEFER gives the deadline 1,006,000. -/
theorem test_defer :
    let s : State := { State.reset with tbu := { State.reset.tbu with siteTime := 1001200 } }
    let r := (s.decisionOn (alarmRecord 6 .pending (some 1003000)) .defer).1
    r.deadline = some 1006000 ∧ s.windowLeft r = 4800 := by decide

/-- R106: id 65535 is followed by 1, and ids in use are passed over. -/
theorem test_fresh_id : freshId [65535, 1] 33 65535 = 2 := by decide

/-- Chapter 7, the LEVEL example: the line that is slow to release is FAULT after ack_timeout. -/
theorem test_level_release :
    let l := (({ StopLine.reset with demand := true, stopOut := true, ackLevel := true }).demandChange
      false 0)
    l.stopOut = false ∧ l.ackTimer = some 0 ∧
      ((after (.ackTimeout 10000000) (withLine l State.reset)).sli.fault) = true := by decide

/-- Chapter 7, the PULSE example at 1,500: an owed sequence begins in SPACING. -/
theorem test_owed_sequence :
    ({ pulseLine .trailing with stopOut := true, owed := true }).endSequence 15000000 =
      { pulseLine .spacing with pulseTimer := some 15000000 } := by decide

/-- Section 8.6, train 52: 415 filler units before 817 units at unit 4,705 fit a room of 2,215. -/
theorem test_placement :
    let r : Reports := { Reports.reset with position := 4705, unreleased := 2905 }
    fillerFor 4705 817 = 415 ∧ r.fits 817 = true ∧ r.fits 1801 = false := by decide

/-- Section 8.6: RELEASE 60 is clamped to 49, and RELEASE 45 is then below it. -/
theorem test_release_clamp : lesser 60 49 = 49 ∧ below 45 49 = true := by decide

/-- Section 9.5, the handler that masks: a read returns and clears REPORT and leaves TRAIN. -/
theorem test_attention_read :
    let t := after (.attnRead 0) { State.reset with atu := ⟨0x21, 0x0B⟩ }
    t.bus = 1 ∧ t.atu.pending = 0x20 ∧ t.attentionLine = false := by decide

/-- Chapter 10, the third ARM: the clamp of ack_timeout is bit 25 of the clamp set. -/
theorem test_clamp_set :
    clampSetOf { Settings.defaults with ackTimeout := 8000 } = 33554432 := by decide

/-- Chapter 10, the first and second ARM: fields 20 and 35 fail, in increasing index. -/
theorem test_failing_fields :
    failingField { Settings.defaults with hotStop := 500, g1 := 1000 } = some 20 ∧
      failingField { Settings.defaults with g1 := 1000 } = some 35 ∧
      failingField Settings.defaults = none := by decide

/-- R193: words are little-endian in the exchange memory. -/
theorem test_little_endian :
    (after (.hostStore 0 0x83 0x01020304) State.reset).mem =
      [(0x1A, 1), (0x20C, 4), (0x20D, 3), (0x20E, 2), (0x20F, 1)] := by decide

/-- R20: with no command waiting and nothing due, one cycle passes. -/
theorem test_idle_cycle :
    (match step (State.reset.advance 7) with | .next t => t.tbu.cycle | _ => 0) = 8 := by decide

section

set_option Elab.async false

/-! ### States that meet the hypotheses of the statements -/

theorem test_meets_StepTakesTheFrontCommand :
    ({ State.reset with pending := [.secondPulse 5, .orderTake 6] }).pending =
      .secondPulse 5 :: [.orderTake 6] := by decide

/-- An empty queue with nothing due, and with a millisecond due. -/
theorem test_meets_StepTakesTheFrontCommand_idle :
    ((State.reset.advance 7).pending = [] ∧ ∀ c : Instr, ¬(State.reset.advance 7).Due c) ∧
      (State.reset.advance 10000).pending = [] ∧ (State.reset.advance 10000).Due (.millisecondTick 10000) := by
  have none_due : (State.reset.advance 7).dueCommands = [] := by decide
  refine ⟨⟨rfl, fun c h => ?_⟩, rfl, rfl, by decide⟩
  have := mem_dueCommands_of_due _ rfl c h
  rw [none_due] at this
  cases this

theorem test_meets_HeldPartTakesNoCommand :
    ({ State.reset with power := { Power.good with held := true } }).power.held = true ∧
      ∀ now resetN core io, Instr.secondPulse 5 ≠ .powerReset now resetN core io :=
  ⟨rfl, fun _ _ _ _ h => nomatch h⟩

/-- The first and the last instant ahead, the present instant, and the first that is not ahead. -/
theorem test_meets_DroppedWriteRunsOnlyTheClock :
    State.reset.Running ∧
      (∀ n ∈ [1, 9223372036854775807],
        0 < (BitVec.ofNat 64 n - State.reset.tbu.cycle).toNat ∧
          (BitVec.ofNat 64 n - State.reset.tbu.cycle).toNat < 2 ^ 63) ∧
      ((0 : Cycle) - State.reset.tbu.cycle).toNat = 0 ∧
      2 ^ 63 ≤ ((9223372036854775808 : Cycle) - State.reset.tbu.cycle).toNat := by decide

theorem test_meets_EdgeFollowsTheDecoderTable :
    ∀ row ∈ decoderTable,
      let s := withDetector .g2 ⟨row.1, some .west, some 9, none, .inService⟩ watching
      s.Running ∧ ((s.advance 3000).detector .g2).decoder = row.1 ∧ (s.advance 3000).StoodFor 1000 2000 := by
  decide

/-- R7: a wheel comes onto G2 in IDLE with no timer, with one that runs, and out of service; only the first starts one,
at cycle 3,000. -/
theorem test_edge_starts_stuck_timer :
    let s (timer : Option Cycle) (service : Service) : State :=
      withDetector .g2 ⟨.clear, none, none, timer, service⟩ watching
    let timer (s : State) : Option Cycle := ((after (.elementEdge 3000 .g2 .e1 true 1000) s).detector .g2).stuckTimer
    (s none .inService).tt.tracker ≠ .opened ∧ timer (s none .inService) = some 3000 ∧
      timer (s (some 7) .inService) = some 7 ∧ timer (s none .stuck) = none := by decide

/-- Every edge of R4 with an unknown entry side: at a gate with no train open, and at an approach sensor of an open
train. -/
theorem test_meets_DroppedCrossingChangesOnlyItsDetector_noCrossing :
    ∀ row ∈ decoderTable,
      let d : Detector := ⟨row.1, none, none, none, .inService⟩
      (∀ x ∈ [(Det.g2, watching), (.apW, withTrain (counts 0 0 0) [] watching)],
        let s := withDetector x.1 d x.2
        s.Running ∧ ((s.advance 3000).detector x.1).decoder = row.1 ∧ (s.advance 3000).StoodFor 1000 2000 ∧
          ((s.advance 3000).detector x.1).entrySide = none) ∧
      (withDetector .g2 d watching).trainOpen = false := by decide

theorem test_meets_DroppedCrossingChangesOnlyItsDetector :
    State.reset.Running ∧ ¬(State.reset.advance 2999).StoodFor 1000 2000 ∧
      (State.reset.advance 3000).trainOpen = false ∧ (State.reset.advance 3000).site.mode = .halt ∧
      (let s := withDetector .g2 { leaving .east with service := .stuck } watching
       s.Running ∧ (s.advance 3000).trainOpen = false ∧
         ((s.advance 3000).detector .g2).service ≠ .inService) ∧
      (let s := withTrain (counts 0 0 0) []
         (withDetector .g2 { leaving .east with service := .stuck } watching)
       s.Running ∧ (s.advance 3000).trainOpen = true ∧
         ((s.advance 3000).detector .g2).service ≠ .inService) := by decide

/-- At each gate in each direction, from IDLE and from APPROACH, with G2 in and out of service, and with buffer 0
FREE, with only buffer 3 FREE, and with none. -/
theorem test_meets_EntryCrossingOpensATrain :
    let near : State := { watching with tt := { watching.tt with tracker := .approach ⟨0, 4, 50⟩ } }
    let blind (s : State) : State := withDetector .g2 { covered with service := .stuck } s
    let three (s : State) : State :=
      withBuffer 0 .held 1 (withBuffer 1 .closing 2 (withBuffer 2 .writing 3 s))
    let four (s : State) : State := withBuffer 3 .held 4 (three s)
    (∀ x ∈ [(watching, Det.g1, Dir.east), (near, .g3, .west), (near, .g2, .east), (watching, .g3, .east),
            (blind near, .g1, .west), (three near, .g3, .west), (four watching, .g2, .west)],
      let s := withDetector x.2.1 (leaving x.2.2) x.1
      let u := s.advance 2700
      s.Running ∧ u.site.mode = .watch ∧ u.detector x.2.1 = leaving x.2.2 ∧ u.StoodFor 700 2000 ∧
        u.tt.tracker ≠ .opened ∧ u.trainOpen = false) ∧
    ((near.advance 2700).buffer 0).state = .free ∧
    (((three near).advance 2700).buffer 3).state = .free ∧
    (∀ a : Fin 4, a < 3 → (((three near).advance 2700).buffer a).state ≠ .free) ∧
    (∀ b : Fin 4, (((four watching).advance 2700).buffer b).state ≠ .free) ∧
    ((blind near).detector .g2).service ≠ .inService ∧ (watching.detector .g2).service = .inService := by decide

/-- The detector of `leaving` is about to cross. -/
theorem test_leaving_is_about_to_cross :
    (leaving .east).AboutToCross .east 700 ∧ (leaving .west).AboutToCross .west 700 := by decide

/-- A re-entry, the last new entry, a full table, and a re-entry under substitution at the exit gate; in a buffer and
count-only. -/
theorem test_meets_ReferenceCrossingAdvancesTheFront :
    ∀ x ∈ [counts 2 1 0, counts 1023 1023 0, counts 1024 1024 0,
           { counts 1 0 0 with substituted := true, staging := [some 5] }],
      let gate : Det := if x.substituted then .g3 else .g2
      let s := withDetector gate (leaving .east) (withTrain x [axle] watching)
      let t := withDetector gate (leaving .east) (withCountOnly x watching)
      (∀ y ∈ [s, t], y.Running ∧ (y.advance 2700).site.mode = .watch ∧
        (y.advance 2700).detector gate = leaving .east ∧ (y.advance 2700).StoodFor 700 2000) ∧
      OpenInBuffer (s.advance 2700) { x with number := 1 } [axle] ∧
      OpenCountOnly (t.advance 2700) { x with number := 1 } := by decide

/-- One state for each clause: detector, direction of the crossing, record; in a buffer and count-only. -/
theorem test_meets_CrossingsMoveTheCountsOfATrain :
    ∀ x ∈ [(Det.apW, Dir.east, counts 2 2 0), (.apW, .west, counts 2 2 0),
           (.apE, .east, counts 2 2 0), (.apE, .west, counts 2 2 0),
           (.g1, .east, { counts 2 2 0 with staging := List.replicate 7 none }),
           (.g1, .east, { counts 2 2 0 with staging := List.replicate 8 none }),
           (.g1, .west, counts 2 2 0), (.g1, .west, { counts 2 2 0 with staging := [none] }),
           (.g2, .east, { counts 2 2 0 with substituted := true }),
           (.g2, .west, { counts 2 2 0 with overflow := 1 }), (.g2, .west, counts 2 2 2),
           (.g2, .west, counts 2 0 0),
           (.g3, .west, { counts 2 2 2 with substituted := true }),
           (.g3, .west, { counts 2 2 2 with overflow := 1, overflowExit := 1 }),
           (.g3, .west, counts 2 2 1), (.g3, .west, counts 2 2 0)],
      let s := withDetector x.1 (leaving x.2.1) (withTrain x.2.2 [axle, axle] watching)
      let t := withDetector x.1 (leaving x.2.1) (withCountOnly x.2.2 watching)
      (∀ y ∈ [s, t], y.Running ∧ (y.advance 2700).site.mode = .watch ∧
        (y.advance 2700).detector x.1 = leaving x.2.1 ∧ (y.advance 2700).StoodFor 700 2000) ∧
      OpenInBuffer (s.advance 2700) { x.2.2 with number := 1 } [axle, axle] ∧
      OpenCountOnly (t.advance 2700) { x.2.2 with number := 1 } := by decide

/-- A crossing that clears the train, with no gate occupied and with one, and one that withdraws it: the close
conditions hold and fail at their boundaries. -/
theorem test_close_conditions :
    let s := withTrain { counts 2 2 2 with exitNet := 1 } [axle, axle] watching
    let edge : Instr := .elementEdge 2700 .apE .e2 false 700
    let free := withDetector .apE (leaving .east) s
    let back := withDetector .apW (leaving .west) (withTrain (counts 0 0 0) [] watching)
    ((after edge free).buffer 0).record.status = some .cleared ∧ ((after edge free).buffer 0).state = .held ∧
      (after edge (withDetector .g1 covered free)).tt.tracker = .opened ∧
      ((after (.elementEdge 2700 .apW .e1 false 700) back).buffer 0).record.status = some .withdrawn := by
  decide

/-- An idle SE, an SE with 7 queued requests, and one with 8. -/
theorem test_meets_ExitCrossingRequestsASettlement :
    ∀ x ∈ [0, 7, 8],
      let q : Request := ⟨1, 0, 1, .east, none, 5, 6, true⟩
      let r : TrainRecord := counts 2 2 0
      let s := withDetector .g3 (leaving .east) (withTrain r [axle, axle]
        { watching with se := { watching.se with queue := List.replicate x q } })
      let u := s.advance 2700
      s.Running ∧ u.site.mode = .watch ∧ (u.detector .g3).AboutToCross .east 700 ∧ u.StoodFor 700 2000 ∧
        OpenInBuffer u { r with number := 1 } [axle, axle] ∧ u.bufferOf 1 = some 0 ∧
        r.substituted = false ∧ r.x < r.f ∧ (u.buffer 0).axles[r.x]? = some axle ∧
        axle.run.t2 = some 400 ∧ axle.run.broken = false ∧
        u.se.inFlight = none ∧ u.se.queue.length = x := by decide

/-- A run without T2, a broken run, an axle of a count-only train, an overflow axle, and no axle at all. -/
theorem test_meets_ExitCrossingRequestsASettlement_unclean :
    (∀ x ∈ [(counts 1 1 0, { axle with run := { axle.run with t2 := none } }),
            (counts 1 1 0, { axle with run := { axle.run with broken := true } }),
            ({ counts 1 1 1 with overflow := 1 }, axle), (counts 1 1 1, axle)],
      let s := withDetector .g3 (leaving .east) (withTrain x.1 [x.2] watching)
      let u := s.advance 2700
      s.Running ∧ u.site.mode = .watch ∧ (u.detector .g3).AboutToCross .east 700 ∧ u.StoodFor 700 2000 ∧
        OpenInBuffer u { x.1 with number := 1 } [x.2] ∧
        (x.1.f ≤ x.1.x ∨ x.2.run.t2 = none ∨ x.2.run.broken = true)) ∧
    (let s := withDetector .g3 (leaving .east) (withCountOnly (counts 1 1 0) watching)
     (s.advance 2700).detector .g3 = leaving .east ∧
       OpenCountOnly (s.advance 2700) { counts 1 1 0 with number := 1 }) := by decide

theorem test_meets_StuckDetectorFaults :
    let s := withDetector .apW ⟨.oneW, some .west, none, some 0, .inService⟩ watching
    s.Running ∧ (s.advance 1200000001).trainOpen = false ∧
      (s.detector .apW).service = .inService ∧ (s.detector .apW).stuckTimer = some 0 ∧
      10000000 * s.site.settings.stuckLimit < ((s.advance 1200000001).tbu.cycle - (0 : Cycle)).toNat ∧
      ((s.advance 1200000000).tbu.cycle - (0 : Cycle)).toNat ≤
        10000000 * s.site.settings.stuckLimit := by decide

theorem test_meets_FlatChannelAndSilentLinkFault :
    let s := State.reset.alterStrain 5 (fun c => { c with flatRun := some 0 })
    s.Running ∧ (s.advance 100000000).tt.tracker = .idle ∧
      ((s.advance 100000000).sau.channels.get 5).service = .inService ∧
      ((s.advance 100000000).sau.channels.get 5).flatRun = some 0 ∧
      100000000 ≤ ((s.advance 100000000).tbu.cycle - (0 : Cycle)).toNat ∧
      ((s.advance 1000000).tsu.scanners.get 2).service = .inService ∧
      1000000 ≤ ((s.advance 1000000).tbu.cycle -
        ((s.advance 1000000).tsu.scanners.get 2).linkTimer).toNat ∧
      ((s.advance 99999999).tbu.cycle - (0 : Cycle)).toNat < 100000000 ∧
      ((s.advance 999999).tbu.cycle - ((s.advance 999999).tsu.scanners.get 2).linkTimer).toNat < 1000000 := by decide

theorem test_meets_PointIsTheRoundedMean :
    let u := State.reset.advance 2000
    State.reset.Running ∧ 0 < u.site.settings.averaging ∧
      [(1 : Sample), 2, 3, 0x7FFF].length = u.site.settings.averaging ∧
      ((u.sau.channels.get 15).next + 1) * (500 * u.site.settings.averaging) ≤ u.tbu.cycle.toNat := by
  decide

/-- An unfrozen channel whose new point, at cycle 4,000 of its second slot, has and has not the value of its last one,
one without a run, one out of service, and a frozen one. -/
theorem test_meets_PointIsTheRoundedMean_flat :
    let c : StrainChannel := { StrainChannel.reset with history := [⟨7, false⟩], next := 1, flatRun := some 0 }
    let s (c : StrainChannel) : State := { watching with
      sau := { watching.sau with channels := Vector.replicate 16 c } }
    (∀ x ∈ [c, { c with flatRun := none }, { c with history := [] }, { c with service := .outOfService, flatRun := none }],
      (s x).Running ∧ (((s x).advance 4000).sau.channels.get 3).next = 1 ∧ (s x).tt.tracker = .idle ∧
        (x.next + 1) * (500 * (s x).site.settings.averaging) ≤ ((s x).advance 4000).tbu.cycle.toNat) ∧
    (pointOf [7, 7, 7, 7]).value = 7 ∧ (pointOf [7, 7, 7, 9]).value ≠ 7 ∧
    (withTrain (counts 0 0 0) [] (s { c with flatRun := none })).tt.tracker ≠ .idle := by decide

/-- A channel whose baseline reaches just its drift limit and one beyond it, and a frozen part. -/
theorem test_meets_BaselineMovesTowardThePoint :
    let channel (b : Int) : State := State.reset.alterStrain 5 (fun c =>
      { c with baseline := some (256 * b), history := [⟨b, false⟩], next := 50 })
    (∀ b ∈ [(1000 : Int), 1001, -1001],
      let u := (channel b).advance 100000
      (channel b).Running ∧ u.tt.tracker = .idle ∧ u.tbu.cycle.toNat % 100000 = 0 ∧
        u.sau.updatedAt ≠ some u.tbu.cycle ∧
        (u.sau.channels.get 5).baseline = some (256 * b) ∧
        (u.sau.channels.get 5).history.head? = some ⟨b, false⟩ ∧ (u.sau.channels.get 4).baseline = none ∧
        (after (.baselineUpdate 100000) (channel b)).sau.updatedAt = some 100000 ∧
        (u.sau.channels.get 5).next * (500 * u.site.settings.averaging) = u.tbu.cycle.toNat ∧
        (u.sau.channels.get 5).service = .inService) ∧
    (withTrain (counts 0 0 0) [] watching).tt.tracker ≠ .idle := by decide

theorem test_meets_FrameIsStoredInItsSlot :
    State.reset.Running ∧ ∃ good bad : Byte,
      good = Config.scannerCheck 250 ∧ bad ≠ Config.scannerCheck 250 :=
  ⟨rfl, Config.scannerCheck 250, ~~~Config.scannerCheck 250, rfl, by
    generalize Config.scannerCheck 250 = x
    revert x
    decide +kernel⟩

theorem test_meets_SlotEntersTheHistory :
    State.reset.Running ∧
      (State.reset.tsu.nextSlot + 1) * 10000 ≤ (State.reset.advance 10000).tbu.cycle.toNat ∧
      (State.reset.advance 9999).tbu.cycle.toNat < (State.reset.tsu.nextSlot + 1) * 10000 := by decide

/-- R16: a late SLOT_COMPLETE files the sample of slot 0 and leaves that of slot 1 for its own slot. -/
theorem test_late_slot_keeps_later_sample :
    let s := State.reset.alterScanner 2 (fun c => { c with arrivals := [(1, 30), (0, 20)] })
    let c := (after (.slotComplete 10500) s).tsu.scanners.get 2
    c.history = [some 20] ∧ c.arrivals = [(1, 30)] := by decide

/-- A sample that leaves the ambient at 600, one that takes it to 601, and a frozen scanner. -/
theorem test_meets_AmbientMovesTowardTheSample :
    (∀ x ∈ [(38463, (600 : Sample)), (38400, 664)],
      let s := State.reset.alterScanner 1 (fun c =>
        { c with ambient := some x.1, latest := some x.2, fresh := true })
      let u := s.advance 1000000
      s.Running ∧ u.tbu.cycle.toNat % 1000000 = 0 ∧ u.tsu.updatedAt ≠ some u.tbu.cycle ∧
        (u.tsu.scanners.get 1).ambient = some x.1 ∧ (u.tsu.scanners.get 1).latest = some x.2 ∧
        u.tt.tracker = .idle ∧ (u.tsu.scanners.get 1).fresh = true ∧ (u.tsu.scanners.get 2).ambient = none ∧
        (after (.ambientUpdate 1000000) s).tsu.updatedAt = some 1000000) ∧
    ambientOutside (ambientStep 38463 600) = false ∧ ambientOutside (ambientStep 38400 664) = true ∧
    (withTrain (counts 0 0 0) [] watching).tt.tracker ≠ .idle := by decide

/-- The two ends of the accepted range and the counts beside them. -/
theorem test_meets_SecondPulseMeasuresTheRate :
    let s : State := { State.reset with tbu := { State.reset.tbu with prevPulse := some 0 } }
    s.Running ∧ s.tbu.prevPulse = some 0 ∧ State.reset.tbu.prevPulse = none ∧
      (∀ n ∈ [9800000, 10200000],
        let c := BitVec.ofNat 64 n
        9800000 ≤ ((s.advance c).tbu.cycle - (0 : Cycle)).toNat ∧
          ((s.advance c).tbu.cycle - (0 : Cycle)).toNat ≤ 10200000) ∧
      ((s.advance 9799999).tbu.cycle - (0 : Cycle)).toNat < 9800000 ∧
      10200000 < ((s.advance 10200001).tbu.cycle - (0 : Cycle)).toNat := by decide

theorem test_meets_TrimIsLostAfterThreeSeconds :
    let s : State := { State.reset with tbu := { State.reset.tbu with
      trim := .trimmed, lastAccepted := some 0 } }
    s.Running ∧ s.tbu.lastAccepted = some 0 ∧ s.tbu.trim = .trimmed ∧
      30000000 ≤ ((s.advance 30000000).tbu.cycle - (0 : Cycle)).toNat ∧
      ((s.advance 29999999).tbu.cycle - (0 : Cycle)).toNat < 30000000 ∧
      State.reset.Running ∧ (State.reset.advance 40000000).tbu.trim ≠ .trimmed ∧
      (State.reset.advance 40000000).tbu.lastAccepted = none := by decide

theorem test_meets_MillisecondAdvancesSiteTime :
    State.reset.Running ∧
      (State.reset.advance 10000).tbu.rateInForce ≤ (State.reset.advance 10000).tbu.accumulator ∧
      (State.reset.advance 9999).tbu.accumulator < (State.reset.advance 9999).tbu.rateInForce := by decide

theorem test_meets_ApproachTimesOutWithoutATrace :
    let s : State := { watching with tt := { watching.tt with tracker := .approach ⟨1, 0, 0⟩ } }
    s.Running ∧ (s.advance 3000000000).tt.tracker = .approach ⟨1, 0, 0⟩ ∧
      10000000 * s.site.settings.approachTimeout ≤
        ((s.advance 3000000000).tbu.cycle - (0 : Cycle)).toNat ∧
      ((s.advance 2999999999).tbu.cycle - (0 : Cycle)).toNat <
        10000000 * s.site.settings.approachTimeout := by decide

/-- Each approach sensor crossed toward the zone and away from it, in IDLE and in APPROACH. -/
theorem test_meets_ApproachTimesOutWithoutATrace_crossings :
    ∀ x ∈ [(Det.apW, Dir.east), (.apW, .west), (.apE, .east), (.apE, .west)],
      ∀ y ∈ [watching, { watching with tt := { watching.tt with tracker := .approach ⟨1, 0, 0⟩ } }],
        let s := withDetector x.1 (leaving x.2) y
        let u := s.advance 2700
        s.Running ∧ u.site.mode = .watch ∧ u.detector x.1 = leaving x.2 ∧ u.StoodFor 700 2000 ∧
          u.tt.tracker = y.tt.tracker := by decide

/-- R25: a latch ends an approach only when its elapsed time exceeds the new timeout, 10 s here. -/
theorem test_approach_at_latch :
    let s : State := { watching with
      tt := { watching.tt with tracker := .approach ⟨1, 0, 0⟩ }
      site := { watching.site with settings := { Settings.defaults with approachTimeout := 10 } } }
    (s.advance 100000000).approachAtLatch.tt.tracker = .approach ⟨1, 0, 0⟩ ∧
      (s.advance 100000001).approachAtLatch.tt.tracker = .idle := by decide

/-- A buffered train whose quiet timer has just run out, and count-only trains at the open limit beside 7 and
8 stubs. -/
theorem test_meets_TimersCloseTheOpenTrain :
    let r : TrainRecord := { counts 1 1 0 with number := 1, quiet := .running 0 600, openLimit := some 0 }
    let stub : HeldReport := (CountOnly.mk r none).report
    let s := withTrain r [axle] watching
    let beside (n : Nat) : State :=
      withCountOnly r { watching with rpw := { watching.rpw with held := List.replicate n stub } }
    s.Running ∧ (s.advance 600).openRecord = some r ∧ (s.advance 600).bufferIn .opened = some 0 ∧
      600 ≤ ((s.advance 600).tbu.cycle - (0 : Cycle)).toNat ∧
      (∀ a : Fin 4, a ≠ 0 → ((s.advance 600).buffer a).record.number ≠ 1) ∧
      (∀ n ∈ [7, 8],
        let u := (beside n).advance 36000000000
        (beside n).Running ∧ u.openRecord = some r ∧ u.bufferIn .opened = none ∧ u.rpw.stubs = n ∧
          10000000 * u.site.settings.openLimit ≤ (u.tbu.cycle - (0 : Cycle)).toNat) := by decide

/-- A gate that becomes occupied beside a running timer; and with it suspended, the only occupied gate leaving without
a crossing, and one that leaves while another stays. -/
theorem test_meets_TimersCloseTheOpenTrain_gates :
    let rocking (e : Element) : Detector := match e with
      | .e1 => ⟨.oneW, some .west, none, none, .inService⟩
      | .e2 => ⟨.oneE, some .east, none, none, .inService⟩
    let r (q : QuietTimer) : TrainRecord := { counts 1 1 0 with number := 1, quiet := q }
    (∀ x ∈ [withTrain (r (.running 0 600)) [axle] watching, withTrain (r (.running 2700 600)) [axle] watching],
      let u := x.advance 2700
      x.Running ∧ (u.detector .g1).service = .inService ∧ (u.detector .g1).decoder = .clear ∧ u.StoodFor 700 2000 ∧
        OpenInBuffer u (x.buffer 0).record [axle]) ∧
    (∀ e ∈ [Element.e1, .e2], ∀ x ∈ [watching, withDetector .g3 covered watching],
      let s := withDetector .g1 (rocking e) (withTrain (r (.suspended 600)) [axle] x)
      let t := withDetector .g1 (rocking e) (withCountOnly (r (.suspended 600)) x)
      OpenInBuffer (s.advance 2700) (r (.suspended 600)) [axle] ∧
        OpenCountOnly (t.advance 2700) (r (.suspended 600)) ∧
        (s.advance 2700).detector .g1 = rocking e ∧ (t.advance 2700).detector .g1 = rocking e) := by decide

/-- R40: an approach crossing at the very instant of the quiet timer's expiry is taken first, and the expiry does not
happen; a cycle later it has happened. -/
theorem test_expiry_forgone :
    let r : TrainRecord := { counts 1 1 0 with quiet := .running 0 2700 }
    let s := withDetector .apW (leaving .east) (withTrain r [axle] watching)
    let t := after (.elementEdge 2700 .apW .e2 false 700) s
    (after (.quietTimeout 2700) t).tt.tracker = .opened ∧ (after (.quietTimeout 2700) s).tt.tracker = .idle ∧
      (after (.quietTimeout 9000) t).tt.tracker = .opened := by decide

/-- A covered axle and one without a consist. -/
theorem test_meets_SettlementFixesItsInputs :
    let q : Request := ⟨1, 0, 1, .east, some 100, 400, 700, false⟩
    let s := withTrain (counts 1 1 1) [{ axle with state := .passed }]
      { watching with se := { watching.se with queue := [q] } }
    let v : Vehicle := ⟨[], 4, 2300, .wagon⟩
    let t := s.alterBuffer 0 (fun x => { x with consist := some [v] })
    s.Running ∧ (s.advance 9).se.inFlight = none ∧ (s.advance 9).se.queue = q :: [] ∧
      (s.advance 9).bufferOf q.train = some 0 ∧
      ((s.advance 9).buffer 0).axles[q.axle]? = some { axle with state := .passed } ∧
      ((s.advance 9).buffer 0).consist.bind (fun vs => covering vs q.axle) = none ∧
      ((t.advance 9).buffer 0).consist.bind (fun vs => covering vs q.axle) = some v := by decide

/-- A settlement with one crib window that ends at point 3 and no scanner window. -/
def waitingSettlement : Settlement :=
  { request := ⟨1, 0, 1, .east, some 100, 400, 700, false⟩, rate := 10000000
    strainInService := Vector.replicate 16 true, scannerInService := Vector.replicate 4 true
    settings := Settings.defaults, limit := 3200, source := .default
    segmentA := .valid 20000, segmentB := .valid 20000
    cribWindows := [⟨1, 3⟩], scanWindows := [], extracted := none }

/-- Point 3 is complete, and not yet complete. -/
theorem test_meets_ExtractionWaitsForEveryWindow :
    ∀ x ∈ [4, 3],
      let s : State := { watching with se := { watching.se with inFlight := some waitingSettlement } }
      let u := (s.alterStrain 0 (fun c => { c with next := x })).advance 9
      s.Running ∧ u.se.inFlight = some waitingSettlement ∧ waitingSettlement.extracted = none ∧
        waitingSettlement.cribWindows.length ≤ 16 ∧
        ((∀ w ∈ waitingSettlement.cribWindows, w.hi < ((u.sau.channels.get 0).next : Int)) ↔ x = 4) := by
  decide

/-- An entry still on the run with nothing stored, and one on a later run with a valid load result. -/
theorem test_meets_SettlementWritesItsResults :
    let rail : RailLoad := ⟨some 1500, some 1500, some 0, some 256, 8, false, false, false, false⟩
    let load : LoadResult :=
      ⟨rail, rail, some 3000, false, false, false, false, false, 1, 3200, .default⟩
    let f : Settlement := { waitingSettlement with extracted := some ⟨5, [], []⟩ }
    ∀ e ∈ [{ axle with state := .settling },
           { axle with run := { axle.run with number := 2 }, load := some load }],
      let s := withTrain (counts 1 1 1) [e] { watching with se := { watching.se with inFlight := some f } }
      let u := s.advance 9
      s.Running ∧ u.se.inFlight = some f ∧ f.extracted = some ⟨5, [], []⟩ ∧
        u.bufferOf f.request.train = some 0 ∧ (u.buffer 0).axles[f.request.axle]? = some e := by decide

/-- A CLOSING buffer whose train has no request, and one with a request in the queue. -/
theorem test_meets_CloseComputationsHoldTheBuffer :
    let s := withBuffer 2 .closing 7 watching
    let q : Request := ⟨7, 0, 1, .east, none, 5, 6, true⟩
    let t : State := { s with se := { s.se with queue := [q] } }
    s.Running ∧ ((s.advance 9).buffer 2).state = .closing ∧
      (∀ a : Fin 4, a ≠ 2 → ((s.advance 9).buffer a).record.number ≠ 7) ∧
      (s.advance 9).se.holds 7 = false ∧ (t.advance 9).se.holds 7 = true ∧
      ((after (.closeComputations 9 2) s).buffer 2).consist = none := by decide

/-- A CLOSING train with a consist of one vehicle too few, an alarm entry of each kind of board outcome, and a board
whose records have different keys. -/
theorem test_meets_CloseComputationsHoldTheBuffer_outcomes :
    let entry (axle : Nat) (level : Level) (id : Nat) (unboarded : Bool) : AlarmEntry :=
      ⟨axle, .b, .hotBearing, level, 912, 900, id, unboarded, none⟩
    let s := withRecord 5 { alarmRecord 6 .vetoed none with train := 7 } (State.alterBuffer
      (withBuffer 2 .closing 7 watching) 2 (fun x => { x with
        record := { x.record with status := some .cleared, closeTime := some 5, entries := 2 }, axles := [axle, axle]
        alarms := [entry 37 .stop 6 false, entry 1 .stop 4 false, entry 2 .stop 0 true, entry 3 .note 0 false]
        consist := some [⟨[], 1, 0, .wagon⟩] }))
    let u := s.advance 9
    s.Running ∧ (u.buffer 2).state = .closing ∧ u.se.holds 7 = false ∧
      (∀ k : Fin 32, (u.ab.positions.get k).isSome = true → k = 5) ∧
      ((after (.closeComputations 9 2) s).buffer 2).alarms.map (·.outcome) =
        [some .vetoed, some .evicted, some .unboarded, some .none] ∧
      ((after (.closeComputations 9 2) s).buffer 2).mismatch = true := by decide

/-- The deadline is reached, and missed by a millisecond. -/
theorem test_meets_ExpiryCommitsTheRecord :
    ∀ n ∈ [0, 1],
      let d : SiteTime := BitVec.ofNat 64 n
      let s := withRecord 5 (alarmRecord 6 .pending (some d)) watching
      s.Running ∧ (s.advance 9).ab.positions.get 5 = some (alarmRecord 6 .pending (some d)) ∧
        (alarmRecord 6 .pending (some d)).state = .pending ∧ (s.advance 9).tbu.siteTime = 0 ∧
        s.sli.mode = .level ∧ s.sli.demand = false := by decide

/-- Every decision on a record of every state, and the ids at the ends of the range. -/
theorem test_meets_DecisionsFollowTheTable :
    (∀ n ∈ [1, 2, 3], ∀ st ∈ [RecordState.informed, .pending, .committed, .vetoed, .cleared],
      let d : Word := BitVec.ofNat 32 n
      let s := ordering 6 65535 d 0 (withRecord 5 (alarmRecord 65535 st (some 3000)) watching)
      s.Running ∧ (s.advance 9).RunsOrder .decideAlarm (order 6 65535 d 0) ∧
        (s.advance 9).ab.positions.get 5 = some (alarmRecord 65535 st (some 3000)) ∧
        (alarmRecord 65535 st (some 3000)).id = (65535 : Word).toNat ∧
        ∀ k : Fin 32, ((s.advance 9).ab.positions.get k).isSome = true → k = 5) ∧
    (∀ x ∈ [(0, 1), (65536, 1), (1, 0), (1, 4), (1, 1)],
      let a : Word := BitVec.ofNat 32 x.1
      let d : Word := BitVec.ofNat 32 x.2
      ((ordering 6 a d 0 watching).advance 9).RunsOrder .decideAlarm (order 6 a d 0) ∧
        ∀ p : Fin 32, ((ordering 6 a d 0 watching).advance 9).ab.positions.get p = none) := by decide

theorem test_meets_ClearStopReleasesTheStop :
    (∀ st ∈ [RecordState.committed, .pending], ∀ n ∈ [1, 0],
      let a : Word := BitVec.ofNat 32 n
      let s := ordering 7 a 0 0 (withRecord 5 (alarmRecord 1 st none) watching)
      s.Running ∧ (s.advance 9).RunsOrder .clearStop (order 7 a 0 0) ∧
        (s.advance 9).ab.positions.get 5 = some (alarmRecord 1 st none) ∧
        ∀ k : Fin 32, ((s.advance 9).ab.positions.get k).isSome = true → k = 5) ∧
    (∀ n ∈ [65535, 65536],
      (ordering 7 (BitVec.ofNat 32 n) 0 0 watching).RunsOrder .clearStop
        (order 7 (BitVec.ofNat 32 n) 0 0)) := by
  decide

/-- The site header of a COMMITTED record whose demand has been handed on and shown. -/
theorem test_meets_ClearStopReleasesTheStop_shown :
    let s := (withLine { StopLine.reset with demand := true, stopOut := true }
      (withRecord 5 (alarmRecord 1 .committed none) watching)).showStopLine
    s.DemandHandedOn ∧ s.mem.Shows 0x28 2 (stopItems 0 s.sli s.ab) := by
  unfold State.DemandHandedOn Memory.Shows
  decide

theorem test_meets_LevelLineSupervisesTheAnswer :
    (∀ demand ∈ [true, false],
      let s := withLine { StopLine.reset with demand := demand } watching
      s.Running ∧ (s.advance 10000).sli.mode = .level ∧ true ≠ (s.advance 10000).sli.ackLevel ∧
        (s.advance 10000).StoodFor 0 10000) ∧
    (let s := withLine { StopLine.reset with ackTimer := some 0 } watching
     s.Running ∧ s.sli.ackTimer = some 0 ∧
       10000 * s.site.settings.ackTimeout ≤ ((s.advance 10000000).tbu.cycle - (0 : Cycle)).toNat ∧
       ((s.advance 9999999).tbu.cycle - (0 : Cycle)).toNat < 10000 * s.site.settings.ackTimeout) := by
  decide

theorem test_meets_PulseLineTakesTheAnswer :
    ∀ phase ∈ [Phase.idle, .spacing, .pulsing, .listening, .trailing], ∀ owed ∈ [true, false],
      ∀ level ∈ [true, false],
        let s := withLine { pulseLine phase with owed := owed, ackLevel := !level } watching
        s.Running ∧ (s.advance 10000).sli.mode = .pulse ∧ level ≠ (s.advance 10000).sli.ackLevel ∧
          (s.advance 10000).StoodFor 0 10000 := by decide

theorem test_meets_SequenceTimersFollowTheTable :
    (∀ phase ∈ [Phase.pulsing, .trailing, .spacing],
      let s := withLine { pulseLine phase with pulseTimer := some 0 } watching
      s.Running ∧ s.sli.pulseTimer = some 0 ∧
        10000 * s.site.settings.pulseWidth ≤ ((s.advance 5000000).tbu.cycle - (0 : Cycle)).toNat ∧
        ((s.advance 4999999).tbu.cycle - (0 : Cycle)).toNat < 10000 * s.site.settings.pulseWidth) ∧
    (∀ phase ∈ [Phase.pulsing, .listening], ∀ k ∈ [1, 2, 3],
      let s := withLine { pulseLine phase with listenTimer := some 0, attempt := some k } watching
      s.Running ∧ s.sli.listenTimer = some 0 ∧ s.sli.attempt = some k ∧
        10000 * s.site.settings.ackTimeout ≤ ((s.advance 10000000).tbu.cycle - (0 : Cycle)).toNat ∧
        ((s.advance 9999999).tbu.cycle - (0 : Cycle)).toNat < 10000 * s.site.settings.ackTimeout) := by
  decide

/-- A buffered report with a FULL size of 1,058 and a SUMMARY size of 734 from unit 4,705 on, by the units
that are unreleased: FULL just fits with its filler of 415, SUMMARY just fits, and nothing fits; a stub
that fits and one that does not; and a lower train CLOSING. -/
theorem test_meets_HeadIsPlacedByTheRoom :
    let report (b : Option (Fin 4)) (full summary : Nat) : HeldReport :=
      ⟨b, (CountOnly.mk { counts 0 0 0 with number := 9 } none).report.header, full, summary⟩
    let s (h : HeldReport) (used : Nat) : State := withBuffer 2 .held 9 { watching with rpw :=
      { Reports.reset with held := [h], position := 4705, unreleased := used } }
    (∀ x ∈ [(report (some 2) 1058 734, 3647), (report (some 2) 1058 734, 3648),
            (report (some 2) 1058 734, 3971), (report (some 2) 1058 734, 3972),
            (report none 2 2, 5118), (report none 2 2, 5119)],
      let u := (s x.1 x.2).advance 9
      (s x.1 x.2).Running ∧ u.rpw.write = none ∧ u.rpw.held = x.1 :: [] ∧
        (u.buffer 2).vehicles.length = ((u.buffer 2).consist.getD []).length ∧
        ∀ b : Fin 4, (u.buffer b).state ≠ .closing) ∧
    unitsNeeded 4705 1058 = 5120 - 3647 ∧ unitsNeeded 4705 734 = 5120 - 3971 ∧
    unitsNeeded 4705 2 = 5120 - 5118 ∧
    (let t := withBuffer 1 .closing 8 (s (report (some 2) 1058 734) 0)
     t.Running ∧ ((t.advance 9).buffer 1).state = .closing ∧
       below ((t.advance 9).buffer 1).record.number 9 = true) := by decide

/-- A completion that just reaches the high mark, and one that stays a unit below it. -/
theorem test_meets_CompletionPublishesTheReport :
    ∀ used ∈ [4086, 4085],
      let h : HeldReport := ⟨some 2, (CountOnly.mk (counts 0 0 0) none).report.header, 10, 10⟩
      let s : State := withBuffer 2 .writing 9 { watching with rpw := { Reports.reset with
        held := [h], unreleased := used, write := some ⟨.full, 1, 0, 0, 10, 0, 8, 0, 0⟩ } }
      let u := s.advance 9
      s.Running ∧ u.rpw.write = some ⟨.full, 1, 0, 0, 10, 0, 8, 0, 0⟩ ∧ u.rpw.held = h :: [] ∧
        u.rpw.highArmed = true ∧ (4096 ≤ used + (0 + 10) ↔ used = 4086) := by decide

/-- An ignored release, a repeated one, one that frees a report, and one that is clamped. -/
theorem test_meets_ReleaseFreesTheJournal :
    let s : State := { watching with rpw := { Reports.reset with
      accepted := 33, lastWritten := 35, unreleased := 20, position := 20, highArmed := false
      index := [⟨34, 0, 0, 10⟩, ⟨35, 0, 10, 10⟩] } }
    s.Running ∧ below 32 s.rpw.accepted = true ∧
      (∀ n ∈ [33, 34, 36], below (BitVec.ofNat 32 n) s.rpw.accepted = false) ∧
      below 36 s.rpw.lastWritten = false := by decide

theorem test_meets_PostWriteFollowsTheTable :
    ∀ st ∈ [SlotState.idle, .queued, .running, .waiting, .done],
      let s : State := { watching with ou := { watching.ou with
        slots := alter watching.ou.slots 3 (fun x => { x with state := st }) } }
      s.Running ∧ ((s.advance 9).ou.slots.get 3).state = st := by decide

theorem test_meets_OrderTakeReadsTheHead :
    let s : State := { watching with ou := { watching.ou with
      slots := alter watching.ou.slots 3 (fun x => { x with state := .queued }), queue := [3] } }
    s.Running ∧ (s.advance 9).ou.running = none ∧ (s.advance 9).ou.queue = 3 :: [] ∧
      (ordering 1 0 0 0 watching).ou.running ≠ none ∧ watching.ou.queue = [] := by decide

/-- An ARM runs while a host store changes its kind word and while another kind's completion comes. -/
theorem test_meets_OrderTakeReadsTheHead_running :
    let o := order 1 0 0 0
    (ordering 1 0 0 0 watching).ou.running = some o ∧
      ∀ c ∈ [Instr.hostStore 9 (BitVec.ofNat 17 0x203) 7, .setTime 9, .postWrite 9 3 0],
        (∀ n : Cycle, c ≠ completionOf o.kind n) ∧ (∀ n : Cycle, c ≠ .siteReset n ∧ c ≠ .fullReset n) ∧
          ∀ (n : Cycle) (r : Bool) (a b : Nat), c ≠ .powerReset n r a b := by
  refine ⟨by decide, fun c hc => ?_⟩
  simp only [List.mem_cons, List.not_mem_nil, or_false] at hc
  rcases hc with rfl | rfl | rfl <;> exact ⟨fun n => nofun, fun n => ⟨nofun, nofun⟩, fun _ _ _ _ => nofun⟩

/-- A candidate with g1 at 0, g2 at 3000 and g3 at 6000 over an otherwise zero configuration area. -/
def configuredArea : Memory := [(0x2D34, 0xB8), (0x2D35, 0x0B), (0x2D38, 0x70), (0x2D39, 0x17)]

/-- The memory of an area that passes every check: the positions, N, the gains and the low mark are written. -/
def checkedArea : Memory :=
  ((configuredArea.writeWords 0x2CF0 (List.replicate 16 16384)).writeWord 0x2D3C 4).writeWords 0x2D40
    (List.replicate 20 900)

theorem test_meets_ArmChecksThenLatchesOrWaits :
    let s : State := ordering 1 0 0 0 { watching with mem := checkedArea }
    let busy : State := { s with ou := { s.ou with waiting := some (.disarm 4 0) } }
    (∀ x ∈ [s, busy, withTrain (counts 0 0 0) [] s, withBuffer 1 .closing 8 s],
      x.Running ∧ (x.advance 9).RunsOrder .arm (order 1 0 0 0)) ∧
    failingField (clampSettings (readCandidate s.mem)) = none ∧
    failingField (clampSettings (readCandidate watching.mem)) = some 30 ∧
    s.ou.waiting = none ∧ busy.ou.waiting ≠ none ∧ s.trainsBusy = false ∧
    (withTrain (counts 0 0 0) [] s).trainsBusy = true ∧ (withBuffer 1 .closing 8 s).trainsBusy = true ∧
    s.site.settings.averaging = (clampSettings (readCandidate s.mem)).averaging := by decide

/-- An area that changes the averaging and the line mode, with an approach and a stuck timer, of the least limits of
10 and 30 s, that do and do not exceed them. -/
theorem test_meets_ArmChecksThenLatchesOrWaits_latch :
    let area : Memory := (checkedArea.writeWord 0x2D3C 8).writeWord 0x2D98 1
    let s : State := withDetector .apW ⟨.oneW, some .west, none, some 0, .inService⟩ (ordering 1 0 0 0
      { watching with mem := area, tt := { watching.tt with tracker := .approach ⟨1, 0, 200000000⟩ } })
    let c := clampSettings (readCandidate s.mem)
    s.Running ∧ (s.advance 300000000).RunsOrder .arm (order 1 0 0 0) ∧ s.trainsBusy = false ∧
      failingField c = none ∧ s.site.settings.averaging ≠ c.averaging ∧ s.sli.mode ≠ c.lineMode ∧
      c.approachTimeout = 10 ∧ c.stuckLimit = 30 ∧
      (∀ n ∈ [300000000, 300000001],
        let u := s.advance (BitVec.ofNat 64 n)
        u.tt.tracker = .approach ⟨1, 0, 200000000⟩ ∧ (u.detector .apW).stuckTimer = some 0 ∧
          (10000000 * c.approachTimeout < (u.tbu.cycle - (200000000 : Cycle)).toNat ↔ n = 300000001) ∧
          (10000000 * c.stuckLimit < (u.tbu.cycle - (0 : Cycle)).toNat ↔ n = 300000001)) := by decide

/-- Line timers that do and do not reach the least limits of 100 ms at a latch that keeps the line's mode. -/
theorem test_meets_ArmChecksThenLatchesOrWaits_line :
    let s (mode : Word) (l : StopLine) : State := withLine l (ordering 1 0 0 0
      { watching with mem := checkedArea.writeWord 0x2D98 mode })
    let level := s 0 { StopLine.reset with ackTimer := some 0 }
    let c := clampSettings (readCandidate level.mem)
    failingField c = none ∧ level.sli.mode = c.lineMode ∧ c.ackTimeout = 100 ∧ c.pulseWidth = 100 ∧
    (10000 * c.ackTimeout ≤ ((level.advance 1000000).tbu.cycle - (0 : Cycle)).toNat) ∧
    (((level.advance 999999).tbu.cycle - (0 : Cycle)).toNat < 10000 * c.ackTimeout) ∧
    ∀ x ∈ [(Phase.pulsing, some 1, some 0, some 0), (.pulsing, some 3, some 1, some 0), (.pulsing, some 1, some 0, some 1),
        (.listening, some 3, none, some 0), (.trailing, none, some 0, none), (.spacing, none, some 0, none)],
      let u := (s 1 { pulseLine x.1 with attempt := x.2.1, pulseTimer := x.2.2.1, listenTimer := x.2.2.2 }).advance 1000000
      u.Running ∧ u.RunsOrder .arm (order 1 0 0 0) ∧ u.trainsBusy = false ∧
        failingField (clampSettings (readCandidate u.mem)) = none ∧
        u.sli.mode = (clampSettings (readCandidate u.mem)).lineMode ∧ u.sli.ackTimer = none := by decide

/-- Units at and below a new high mark of 256, and at and above a new low mark of 0. -/
theorem test_meets_ArmChecksThenLatchesOrWaits_marks :
    let c := clampSettings (readCandidate checkedArea)
    c.highMark = 256 ∧ c.lowMark = 0 ∧ ∀ x ∈ [(256, true), (255, true), (0, false), (1, false)],
      let s : State := ordering 1 0 0 0 { watching with
        mem := checkedArea, rpw := { Reports.reset with unreleased := x.1, highArmed := x.2 } }
      s.Running ∧ (s.advance 9).RunsOrder .arm (order 1 0 0 0) ∧ s.trainsBusy = false ∧
        s.site.settings.highMark ≠ c.highMark ∧
        (c.highMark ≤ s.rpw.unreleased ∨ s.rpw.unreleased ≤ c.lowMark ↔ x.1 = 256 ∨ x.1 = 0) := by decide

theorem test_meets_WaitingOrdersCompleteOnTheirCondition :
    let s (w : WaitingOrder) : State := { watching with ou := { watching.ou with
      slots := alter watching.ou.slots 3 (fun x => { x with state := .waiting }), waiting := some w } }
    (s (.arm 3 Settings.defaults 0)).Running ∧
      ((s (.arm 3 Settings.defaults 0)).advance 9).ou.waiting = some (.arm 3 Settings.defaults 0) ∧
      (s (.arm 3 Settings.defaults 0)).trainsBusy = false ∧
      (withBuffer 1 .closing 8 (s (.arm 3 Settings.defaults 0))).trainsBusy = true ∧
      ((s (.disarm 3 1)).advance 9).ou.waiting = some (.disarm 3 1) ∧
      ((s (.disarm 3 1)).buffer 1).state ≠ .closing ∧
      ((withBuffer 1 .closing 8 (s (.disarm 3 1))).buffer 1).state = .closing := by decide

theorem test_meets_DisarmLeavesWatch :
    let s : State := ordering 2 0 0 0 watching
    let q : Request := ⟨1, 0, 1, .east, none, 5, 6, true⟩
    let near : State := { s with tt := { s.tt with tracker := .approach ⟨1, 0, 0⟩ } }
    let train : State := withTrain (counts 1 1 1) [axle] s
    let held : State := { train with se := { train.se with queue := [q] } }
    (∀ x ∈ [s, near, train, held, withCountOnly (counts 1 1 1) s, ordering 2 0 0 0 State.reset],
      x.Running ∧ (x.advance 9).RunsOrder .disarm (order 2 0 0 0) ∧ x.ou.waiting = none) ∧
    s.tt.tracker ≠ .opened ∧ near.tt.tracker ≠ .opened ∧ train.tt.tracker = .opened ∧
    train.bufferIn .opened = some 0 ∧ train.se.holds 1 = false ∧ held.se.holds 1 = true ∧
    (withCountOnly (counts 1 1 1) s).bufferIn .opened = none ∧
    (withCountOnly (counts 1 1 1) s).tt.tracker = .opened ∧
    (∀ x ∈ [train, held], OpenInBuffer (x.advance 9) { counts 1 1 1 with number := 1 } [axle]) ∧
    OpenCountOnly ((withCountOnly (counts 1 1 1) s).advance 9) { counts 1 1 1 with number := 1 } := by decide

/-- A board with a record that the new time makes due, one that it does not, and an empty board. -/
theorem test_meets_SetTimeTakesBothWords :
    let s := ordering 3 5000 0 0 (withRecord 0 (alarmRecord 6 .pending (some 5000))
      (withRecord 1 (alarmRecord 7 .pending (some 5001)) watching))
    s.Running ∧ (s.advance 9).RunsOrder .setTime (order 3 5000 0 0) ∧
      s.ab.positions.get 0 = some (alarmRecord 6 .pending (some 5000)) ∧
      s.ab.positions.get 1 = some (alarmRecord 7 .pending (some 5001)) ∧
      (5000 : SiteTime).toNat ≤ ((0 : Word) ++ (5000 : Word)).toNat ∧
      ¬ (5001 : SiteTime).toNat ≤ ((0 : Word) ++ (5000 : Word)).toNat ∧
      (ordering 3 5000 0 0 watching).RunsOrder .setTime (order 3 5000 0 0) := by decide

/-- A consist area whose records 0 and 511 are wagons of 4 axles, for one record from 511, one that fails at once and
one that fails at its second record. -/
theorem test_meets_ConsistOrdersCopyAndDrop :
    let area : State := { watching with
      mem := [(0x300D, 4), (0x300E, 2), (0x6FED, 4), (0x6FEE, 2)] }
    let s (a1 a2 a3 : Word) : State := ordering 4 a1 a2 a3 area
    (∀ x ∈ [(1, 511, 1), (2, 511, 1), (3, 511, 1), (1, 511, 0), (1, 0, 257), (1, 511, 2), (1, 510, 1),
        (1, 0, 2)],
      let a1 : Word := BitVec.ofNat 32 x.1
      let a2 : Word := BitVec.ofNat 32 x.2.1
      let a3 : Word := BitVec.ofNat 32 x.2.2
      ((s a1 a2 a3).advance 9).Running ∧
        ((s a1 a2 a3).advance 9).RunsOrder .attachConsist (order 4 a1 a2 a3)) ∧
    (∀ n ∈ [0, 511], ¬area.mem.VehicleFails n) ∧ (∀ n ∈ [1, 510], area.mem.VehicleFails n) ∧
    (ordering 4 1 511 1 State.reset).site.mode = .halt ∧
    (∀ n ∈ [1, 2, 3], (ordering 5 (BitVec.ofNat 32 n) 0 0 watching).RunsOrder .dropConsist
      (order 5 (BitVec.ofNat 32 n) 0 0)) ∧
    watching.trainOpen = false ∧ (withTrain (counts 0 0 0) [] watching).bufferIn .opened = some 0 ∧
    (withCountOnly (counts 0 0 0) watching).trainOpen = true ∧
    (withCountOnly (counts 0 0 0) watching).bufferIn .opened = none := by
  simp only [← readVehicle_eq_none]
  decide

/-- Records at and beyond each bound of R87: the tag's length, its first character, the axles and the kind. -/
theorem test_meets_ConsistOrdersCopyAndDrop_records :
    let record (len axles kind char : Byte) : Memory := Memory.writeBytes [] 0x3000
      (List.replicate 12 char ++ [len, axles, kind])
    (∀ m ∈ [record 12 1 1 0x20, record 12 16 3 0x7E, record 0 1 1 0x7F], ¬m.VehicleFails 0) ∧
    (∀ m ∈ [record 13 1 1 0x41, record 1 1 1 0x1F, record 1 1 1 0x7F, record 1 0 1 0x41, record 1 17 1 0x41,
      record 1 1 0 0x41, record 1 1 4 0x41], m.VehicleFails 0) := by
  simp only [← readVehicle_eq_none]
  decide

theorem test_meets_LiveHoldFollowsTheTable :
    let s : State := { watching with lvu := { watching.lvu with hold := some 0 } }
    s.Running ∧ ((ordering 8 0 0 0 s).advance 9).RunsOrder .holdLive (order 8 0 0 0) ∧
      ((ordering 9 0 0 0 s).advance 9).RunsOrder .releaseLive (order 9 0 0 0) ∧
      (s.advance 9).lvu.hold = some 0 ∧ watching.lvu.hold = none ∧
      20000000 ≤ ((s.advance 20000000).tbu.cycle - (0 : Cycle)).toNat ∧
      ((s.advance 19999999).tbu.cycle - (0 : Cycle)).toNat < 20000000 := by decide

/-- The ends of both ranges; no train, a train in a buffer and a count-only train. -/
theorem test_meets_PeekCopiesTheOpenTrain :
    ∀ x ∈ [(0, 0), (0, 13), (1024, 1), (0, 1), (1023, 12)],
      let a1 : Word := BitVec.ofNat 32 x.1
      let a2 : Word := BitVec.ofNat 32 x.2
      let s := ordering 10 a1 a2 0 watching
      let r : TrainRecord := { counts 1 1 0 with number := 1 }
      s.Running ∧ (s.advance 9).RunsOrder .peekTrain (order 10 a1 a2 0) ∧
        (s.advance 9).openRecord = none ∧
        ((withTrain (counts 1 1 0) [axle] s).advance 9).openRecord = some r ∧
        ((withTrain (counts 1 1 0) [axle] s).advance 9).bufferIn .opened = some 0 ∧
        ((withCountOnly (counts 1 1 0) s).advance 9).openRecord = some r ∧
        ((withCountOnly (counts 1 1 0) s).advance 9).bufferIn .opened = none := by decide

/-- The first and the last channel of each class, into and out of service, and the refused arguments. -/
theorem test_meets_ServiceOrderSetsOneChannel :
    (∀ x ∈ [(1, 0), (1, 4), (2, 0), (2, 15), (3, 0), (3, 3)], ∀ n ∈ [1, 2],
      let a1 : Word := BitVec.ofNat 32 x.1
      let a2 : Word := BitVec.ofNat 32 x.2
      let v : Word := BitVec.ofNat 32 n
      let s := ordering 11 a1 a2 v watching
      s.Running ∧ (s.advance 9).RunsOrder .setChannelService (order 11 a1 a2 v) ∧
        channelOf a1 a2 ≠ none) ∧
    (∀ x ∈ [(0, 0, 1), (1, 5, 1), (2, 16, 1), (3, 4, 1), (4, 0, 1), (1, 0, 0), (1, 0, 3)],
      let o := order 11 (BitVec.ofNat 32 x.1) (BitVec.ofNat 32 x.2.1) (BitVec.ofNat 32 x.2.2)
      (ordering 11 o.arg1 o.arg2 o.arg3 watching).RunsOrder .setChannelService o ∧
        ((o.arg1 ≠ 1 ∧ o.arg1 ≠ 2 ∧ o.arg1 ≠ 3) ∨ (o.arg1 = 1 ∧ 5 ≤ o.arg2.toNat) ∨
          (o.arg1 = 2 ∧ 16 ≤ o.arg2.toNat) ∨ (o.arg1 = 3 ∧ 4 ≤ o.arg2.toNat) ∨ (o.arg3 ≠ 1 ∧ o.arg3 ≠ 2))) := by
  decide

/-- Orders that do and do not change the tracking occupancy of G3 and of AP-W, with a train open in a buffer and as a
count-only train, and with none: into service from FAULTED:STUCK and out of service, occupied and clear. -/
theorem test_meets_ServiceOrderSetsOneChannel_detectors :
    ∀ x ∈ [(Det.g3, 4), (.apW, 0)], ∀ n ∈ [1, 2], ∀ service ∈ [Service.stuck, .inService],
      ∀ decoder ∈ [DecoderState.both, .clear],
        let a : Word := BitVec.ofNat 32 x.2
        let v : Word := BitVec.ofNat 32 n
        let s := withDetector x.1 ⟨decoder, none, none, none, service⟩ (ordering 11 1 a v watching)
        let r : TrainRecord := { counts 1 1 0 with number := 1 }
        (∀ y ∈ [s, withTrain r [axle] s, withCountOnly r s], y.Running ∧
          (y.advance 9).RunsOrder .setChannelService (order 11 1 a v) ∧
          ((y.advance 9).detector x.1).decoder = decoder ∧ ((y.advance 9).detector x.1).service = service) ∧
        s.tt.tracker ≠ .opened ∧ s.trainOpen = false ∧ OpenInBuffer ((withTrain r [axle] s).advance 9) r [axle] ∧
        OpenCountOnly ((withCountOnly r s).advance 9) r := by decide

/-- A strain channel already in service, whose flat run goes on under IN, and one in FAULTED:FLAT. -/
theorem test_meets_ServiceOrderSetsOneChannel_strain :
    ∀ service ∈ [Service.inService, .flat],
      let c : StrainChannel := { StrainChannel.reset with service := service, flatRun := some 7 }
      let s := ordering 11 2 15 1 { watching with sau := { watching.sau with channels := Vector.replicate 16 c } }
      s.Running ∧ (s.advance 9).RunsOrder .setChannelService (order 11 2 15 1) ∧
        (s.advance 9).sau.channels.get 15 = c := by decide

theorem test_meets_UnknownKindIsAnswered :
    ∀ n ∈ [0, 12, 4294967295],
      let k : Word := BitVec.ofNat 32 n
      ((ordering k 0 0 0 watching).advance 9).ou.running = some (order k 0 0 0) ∧
        (k.toNat = 0 ∨ 11 < k.toNat) := by decide

theorem test_meets_LiveViewRefreshes :
    let u := State.reset.advance 1000000
    State.reset.Running ∧ u.tbu.cycle ≠ 0 ∧ u.tbu.cycle.toNat % 1000000 = 0 ∧ u.lvu.hold = none ∧
      u.lvu.refreshedAt ≠ some u.tbu.cycle ∧ (State.reset.advance 999999).tbu.cycle.toNat % 1000000 ≠ 0 ∧
      (State.reset.advance 0).tbu.cycle = 0 := by
  decide

/-- The first and the last host-writable words of the slots, the configuration and consist areas and the scratch area,
and the words beside them. -/
theorem test_meets_HostStoreWritesOneWord :
    State.reset.Running ∧ ∀ n ∈ [0x83, 0x87, 0x803, 0x807, 0xB00, 0x1BFF, 0xBC00, 0xFFFF],
      hostWord (BitVec.ofNat 17 n) = .store ∧
        let place := 4 * (BitVec.ofNat 17 n).toNat
        ((0x20C ≤ place ∧ place < 0x220) ∨ (0x200C ≤ place ∧ place < 0x2020) ∨ (0x2C00 ≤ place ∧ place < 0x7000) ∨
          (0x2F000 ≤ place ∧ place < 0x40000)) := by decide

/-- R157, R159: the watched words, the registers, and dropped words at the edges of the areas. -/
theorem test_host_words :
    hostWord 1 = .release ∧ hostWord 0x80 = .post 0 ∧ hostWord 0x800 = .post 15 ∧ hostWord 0x10002 = .attnMask ∧
      hostWord 0x10003 = .siteCtrl ∧
      ∀ n ∈ [0, 2, 0x81, 0x82, 0x88, 0x880, 0xAFF, 0x1C00, 0xBBFF, 0x10000, 0x10001, 0x10004, 0x1FFFF],
        hostWord (BitVec.ofNat 17 n) = .dropped := by decide

theorem test_meets_AttentionIsReadAndMasked : State.reset.Running := by decide

/-- A part with a train open, one CLOSING with its settlement in flight and one HELD, an order RUNNING, and a record
PENDING; and one with no buffer CLOSING. -/
theorem test_meets_SiteResetDropsUnfinishedWork :
    let f : Settlement :=
      { request := ⟨8, 0, 1, .east, some 100, 400, 700, false⟩, rate := 10000000
        strainInService := Vector.replicate 16 true, scannerInService := Vector.replicate 4 true
        settings := Settings.defaults, limit := 3200, source := .default, segmentA := .creep, segmentB := .creep
        cribWindows := [], scanWindows := [], extracted := none }
    let open_ := withRecord 5 (alarmRecord 6 .pending (some 3000)) (ordering 1 0 0 0
      (withBuffer 2 .held 7 (withTrain (counts 1 1 0) [axle] watching)))
    let s := State.alterBuffer { withBuffer 1 .closing 8 open_ with se := { watching.se with inFlight := some f } } 1
      (fun x => { x with axles := [{ axle with state := .settling }] })
    s.Running ∧ open_.Running ∧ (s.buffer 0).state = .opened ∧ (∀ a : Fin 4, (s.buffer a).state = .opened → a = 0) ∧
      (s.buffer 1).state = .closing ∧ (s.buffer 2).state = .held ∧ s.se.inFlight = some f ∧
      s.bufferOf f.request.train = some 1 ∧
      (s.buffer 1).axles[f.request.axle]? = some { axle with state := .settling } ∧
      (s.ou.slots.get 0).state = .idle ∧ (s.ou.slots.get 3).state = .running ∧
      s.ab.positions.get 5 = some (alarmRecord 6 .pending (some 3000)) ∧
      s.sli.demand = s.ab.demand ∧ (∀ b : Fin 4, (open_.buffer b).state ≠ .closing) := by decide

/-- R47, R156: of two CLOSING buffers that of the lower train is finished first, and both reports join the held queue;
the configuration area, which a site reset does not clear (R161), keeps its byte. -/
theorem test_meets_SiteResetDropsUnfinishedWork_closing :
    let s := withBuffer 1 .closing 8 (withBuffer 3 .closing 7
      { watching with mem := Memory.writeBytes watching.mem 0x2C00 [5] })
    let t := after (.siteReset 0) s
    s.Running ∧ (s.buffer 1).state = .closing ∧ (s.buffer 3).state = .closing ∧ s.closingBuffers = [3, 1] ∧
      t.rpw.held.map (fun h => (h.header.number, h.buffer)) = [(7, some 3), (8, some 1)] ∧
      t.mem.readByte 0x18 = 2 ∧ t.mem.readByte 0x2C00 = 5 := by decide +kernel

theorem test_meets_FullResetReturnsEveryBlock : watching.Running := by decide

theorem test_meets_PowerHoldsThePartInReset :
    let held : State := { State.reset with power := { Power.good with held := true } }
    let lost : State := { State.reset with power := { Power.good with held := true, supplyLost := true } }
    held.power.held = true ∧ held.power.supplyLost = false ∧
      lost.power.held = true ∧ lost.power.supplyLost = true ∧ State.reset.power.held = false := by decide

end

/-! ### States with work in them that have the invariants -/

/-- A part in WATCH with a train open, an order RUNNING, a PENDING record on the board, a published report and
a command waiting. -/
def busyPart : State :=
  withTrain (counts 2 1 0) [axle, axle] (ordering 1 0 0 0 (withRecord 5 (alarmRecord 6 .pending (some 3000))
    { watching with
      pending := [.orderTake 9]
      rpw := { Reports.reset with
        unreleased := 10, position := 10, lastWritten := 1, index := [⟨1, 0, 0, 10⟩] } }))

theorem test_meets_invariants_step : ∃ t, step busyPart = .next t := ⟨_, rfl⟩

theorem test_meets_MemoryStaysCanonical : busyPart.MemoryCanonical := by
  unfold State.MemoryCanonical
  decide

theorem test_meets_TrainCountsStayBounded : busyPart.CountsBounded :=
  ⟨by unfold TrainRecord.Counted; decide, fun _ h => nomatch h⟩

theorem test_meets_ConfigurationSound : busyPart.ConfigurationSound := by
  refine ⟨⟨by decide, by decide, fun k h => ?_⟩, fun n c clamps h => nomatch h⟩
  unfold Settings.Fails at h
  revert h
  simp only [show busyPart.site.settings = Settings.defaults from rfl]
  rintro (⟨-, h⟩ | ⟨-, h⟩ | ⟨-, h⟩ | ⟨-, h⟩ | ⟨-, h⟩ | ⟨-, h⟩ | ⟨-, h⟩ | ⟨-, h⟩ | ⟨-, h⟩ | ⟨-, h⟩ | ⟨-, h⟩) <;>
    revert h <;> decide

theorem test_meets_StopDemandStaysHandedOn : busyPart.DemandHandedOn := by
  unfold State.DemandHandedOn
  decide

theorem test_meets_BoardKeysStayDistinct : busyPart.KeysDistinct := by
  have one : ∀ k : Fin 32, (busyPart.ab.positions.get k).isSome = true → k = 5 := by decide
  intro p q r t hp hq _ _ _ _
  rw [one p (by simp [hp]), one q (by simp [hq])]

/-- A board of 32 records of train 1 in a state, the record of position p being of axle p. -/
def fullBoard (st : RecordState) (s : State) : State :=
  { s with ab := { s.ab with
      positions := Vector.ofFn (fun p : Fin 32 =>
        some { alarmRecord (p.val + 1) st none with train := 1, axle := p.val })
      order := List.finRange 32 } }

theorem test_fullBoard_keys (st : RecordState) (s : State) : (fullBoard st s).KeysDistinct := by
  intro p q r t hp hq _ h _ _
  simp only [fullBoard, Vector.get_ofFn, Option.some.injEq] at hp hq
  subst hp hq
  exact Fin.ext h

/-- An alarm of train 1 on axle `n`. -/
def alarmOn (n : Nat) (level : Level) : Alarm := ⟨.hotBearing, level, 1, n, .b, 912, 900⟩

/-- An alarm whose key a record carries, one that meets an empty board, one that meets a full board with a spent
record, and ones that meet a full board with none; each train in a buffer. -/
theorem test_meets_BoardKeysStayDistinct_alarm :
    let s := withTrain (counts 1 1 0) [axle] watching
    s.bufferOf (alarmOn 31 .warn).train = some 0 ∧
      (∀ st ∈ [RecordState.vetoed, .committed], (fullBoard st s).bufferOf 1 = some 0 ∧
        ((fullBoard st s).ab.positions.get 31).map (·.axle) = some (alarmOn 31 .warn).axle ∧
        (∀ p : Fin 32, ((fullBoard st s).ab.positions.get p).any (fun r => r.axle ≠ 40 && r.state == st) = true)) ∧
      (∀ p : Fin 32, s.ab.positions.get p = none) ∧
      (s.raiseForAxle (alarmOn 40 .stop)).ab.positions.get 0 =
        some ⟨1, .pending, .stop, .hotBearing, 1, 40, .b, 912, 900, 0, some 3000, false, .none⟩ ∧
      ((fullBoard .vetoed s).raiseForAxle (alarmOn 40 .warn)).ab.order.getLast? = some 0 ∧
      ((fullBoard .committed s).raiseForAxle (alarmOn 40 .stop)).ab.unlistedStops = 1 := by decide

theorem test_meets_OrderQueueStaysSound : busyPart.OrdersSound := by
  unfold State.OrdersSound
  decide

theorem test_meets_BuffersStaySound : busyPart.BuffersSound :=
  ⟨by decide, by decide, by decide, fun _ d => by cases d <;> rfl, by decide, by decide, by decide⟩

theorem test_meets_JournalStaysBounded : busyPart.JournalBounded :=
  ⟨by decide, by decide, fun _ h => nomatch h⟩

end Sys2Proof.Machine
end

section
/-!
PROOFS. The bounds of R29 on the trains' records (O54): one lemma for each operation that writes a record, one for
each that moves whole buffers, and the step lemma assembled from them.
-/

namespace Sys2Proof.Machine.TrainProofs

open Sys2Proof

/-! ### Records -/

theorem blank_counted : TrainRecord.blank.Counted := by simp [TrainRecord.Counted, TrainRecord.blank]

theorem entryForward_counted {r : TrainRecord} (h : r.Counted) (t : Cycle) : (entryForward t r).Counted := by
  obtain ⟨hf, he, hx, ho, hs⟩ := h
  unfold entryForward stagingSize
  split
  · exact ⟨hf, he, hx, ho, by simp only [List.length_append, List.length_singleton]; omega⟩
  · exact ⟨hf, he, hx, ho, hs⟩

theorem entryReverse_counted {r : TrainRecord} (h : r.Counted) : (entryReverse r).Counted := by
  obtain ⟨hf, he, hx, ho, hs⟩ := h
  unfold entryReverse
  split
  · exact ⟨hf, he, hx, ho, hs⟩
  · exact ⟨hf, he, hx, ho, by simp only [List.length_dropLast]; omega⟩

theorem stageAtHead_counted {r : TrainRecord} (h : r.Counted) : (stageAtHead r).Counted := by
  obtain ⟨hf, he, hx, ho, hs⟩ := h
  unfold stageAtHead stagingSize
  split
  · exact ⟨hf, he, hx, ho, by simp only [List.length_cons]; omega⟩
  · exact ⟨hf, he, hx, ho, hs⟩

theorem backOverflow_counted {r : TrainRecord} (h : r.Counted) : r.backOverflow.Counted := by
  obtain ⟨hf, he, hx, _, hs⟩ := h
  exact ⟨hf, he, hx, Nat.min_le_right _ _, hs⟩

theorem backFront_counted {r : TrainRecord} (h : r.Counted) (substituted : Bool) :
    (r.backFront substituted).Counted := by
  obtain ⟨hf, he, hx, ho, hs⟩ := h
  refine ⟨?_, he, ?_, ho, hs⟩
  · simp only [TrainRecord.backFront]
    omega
  · simp only [TrainRecord.backFront]
    split
    · omega
    · split <;> omega

theorem refForward_counted {tr : Tracked} (h : tr.record.Counted) (substituted : Bool) (t : Cycle) :
    (refForward substituted t tr).record.Counted := by
  obtain ⟨hf, he, hx, ho, hs⟩ := h
  have staged : tr.record.staging.tail.length ≤ 8 := by rw [List.length_tail]; omega
  have passed : (if substituted then 1 else 0 : Nat) ≤ 1 := by split <;> omega
  unfold refForward tableSize
  simp only []
  split
  · exact ⟨by simp only; omega, he, by simp only; omega, ho, staged⟩
  · split
    · exact ⟨by simp only; omega, by simp only; omega, by simp only; omega, ho, staged⟩
    · exact ⟨hf, he, hx, by simp only; omega, staged⟩

theorem refReverse_counted {tr : Tracked} (h : tr.record.Counted) (substituted : Bool) :
    (refReverse substituted tr).record.Counted := by
  unfold refReverse
  simp only []
  split
  · exact stageAtHead_counted (backOverflow_counted h)
  · split
    · exact stageAtHead_counted (backFront_counted h _)
    · exact h

theorem exitForward_counted {tr : Tracked} (h : tr.record.Counted) (t : Cycle) :
    (exitForward t tr).1.record.Counted := by
  obtain ⟨hf, he, hx, ho, hs⟩ := h
  unfold exitForward
  simp only []
  split
  · exact ⟨hf, he, by simp only; omega, ho, hs⟩
  · split
    · exact ⟨hf, he, hx, by simp only; omega, hs⟩
    · exact ⟨hf, he, hx, ho, hs⟩

theorem exitReverse_counted {tr : Tracked} (h : tr.record.Counted) : (exitReverse tr).record.Counted := by
  obtain ⟨hf, he, hx, ho, hs⟩ := h
  unfold exitReverse
  simp only []
  split
  · exact ⟨hf, he, hx, by simp only; omega, hs⟩
  · split
    · exact ⟨hf, he, by simp only; omega, ho, hs⟩
    · exact ⟨hf, he, hx, ho, hs⟩

/-- Every crossing rule keeps the bounds of R29. -/
theorem crossTrain_counted {tr : Tracked} (h : tr.record.Counted) (c : Crossing) :
    (crossTrain c tr).1.record.Counted := by
  unfold crossTrain
  simp only []
  split
  iterate 4 exact h
  · exact entryForward_counted h _
  · exact entryReverse_counted h
  · split
    · exact h
    · exact refForward_counted h _ _
  · split
    · exact h
    · exact refReverse_counted h _
  · split
    · exact refForward_counted h _ _
    · exact exitForward_counted h _
  · simp only []
    split
    · exact refReverse_counted h _
    · exact exitReverse_counted h

theorem close_counted {r : TrainRecord} (h : r.Counted) (status : CloseStatus) (now : SiteTime) :
    (r.close status now).Counted := by
  obtain ⟨hf, he, hx, ho, _⟩ := h
  exact ⟨hf, he, hx, ho, Nat.zero_le _⟩

/-! ### Buffers and the count-only record -/

/-- The bounds are about the Train Tracker alone. -/
theorem counts_of_tt {s t : State} (h : s.CountsBounded) (e : t.tt = s.tt) : t.CountsBounded := by
  unfold State.CountsBounded State.buffer
  rw [e]
  exact h

theorem counts_of_trains {s t : State} (h : s.CountsBounded) (hb : t.tt.buffers = s.tt.buffers)
    (hc : t.tt.countOnly = s.tt.countOnly) : t.CountsBounded := by
  unfold State.CountsBounded State.buffer
  rw [hb, hc]
  exact h

theorem enterTracker_counts {s : State} (h : s.CountsBounded) (t : Tracker) : (s.enterTracker t).CountsBounded :=
  counts_of_trains h rfl rfl

theorem raise_counts {s : State} (h : s.CountsBounded) (c : Cause) : (s.raise c).CountsBounded :=
  counts_of_tt h (State.raise_tt s c)

theorem trainGone_counts {s : State} (h : s.CountsBounded) : s.trainGone.CountsBounded :=
  raise_counts (enterTracker_counts h .idle) .train

theorem dropCountOnly_counts {s : State} (h : s.CountsBounded) :
    State.CountsBounded { s with tt := { s.tt with countOnly := none } } :=
  ⟨h.1, fun _ e => nomatch e⟩

theorem alterBuffer_counts {s : State} (h : s.CountsBounded) (b : Fin 4) {f : Buffer → Buffer}
    (hf : (s.buffer b).record.Counted → (f (s.buffer b)).record.Counted) : (s.alterBuffer b f).CountsBounded := by
  obtain ⟨hb, hc⟩ := h
  refine ⟨fun a => ?_, hc⟩
  by_cases e : a = b
  · subst e
    rw [State.alterBuffer_self]
    exact hf (hb a)
  · rw [State.alterBuffer_other _ _ _ _ e]
    exact hb a

theorem mapCountOnly_counts {s : State} (h : s.CountsBounded) {f : TrainRecord → TrainRecord}
    (hf : ∀ r : TrainRecord, r.Counted → (f r).Counted) :
    State.CountsBounded { s with tt := { s.tt with
      countOnly := s.tt.countOnly.map (fun c => { c with record := f c.record }) } } := by
  refine ⟨h.1, fun c e => ?_⟩
  obtain ⟨c', hc', rfl⟩ := Option.map_eq_some_iff.1 e
  exact hf _ (h.2 c' hc')

theorem alterOpen_counts {s : State} (h : s.CountsBounded) {f : TrainRecord → TrainRecord}
    (hf : ∀ r : TrainRecord, r.Counted → (f r).Counted) : (s.alterOpen f).CountsBounded := by
  unfold State.alterOpen
  split
  · exact alterBuffer_counts h _ (hf _)
  · exact mapCountOnly_counts h hf

/-- The open train's record has the bounds, wherever it stands. -/
theorem tracked_counted {s : State} (h : s.CountsBounded) {tr : Tracked} (e : s.tracked = some tr) :
    tr.record.Counted := by
  unfold State.tracked at e
  split at e
  · cases e
    exact h.1 _
  · obtain ⟨c, hc, rfl⟩ := Option.map_eq_some_iff.1 e
    exact h.2 c hc

theorem putTracked_counts {s : State} (h : s.CountsBounded) {tr : Tracked} (ht : tr.record.Counted) :
    (s.putTracked tr).CountsBounded := by
  unfold State.putTracked
  split
  · exact alterBuffer_counts h _ (fun _ => ht)
  · exact mapCountOnly_counts h (f := fun _ => tr.record) (fun _ _ => ht)

/-! ### Alarms, settlements and the close -/

theorem alterEntry_counts {s : State} (h : s.CountsBounded) (train : Word) (axle : Nat)
    (f : AxleEntry → AxleEntry) : (s.alterEntry train axle f).CountsBounded := by
  unfold State.alterEntry
  split
  · exact alterBuffer_counts h _ id
  · exact h

theorem raiseAlarm_counts {s : State} (h : s.CountsBounded) (a : Alarm) : (s.raiseAlarm a).CountsBounded := by
  refine ⟨fun b => ?_, fun c e => h.2 c ?_⟩
  · rw [State.raiseAlarm_buffer]
    exact h.1 b
  · rw [← e]
    unfold State.raiseAlarm
    have key : (if a.level = .note then (s, false) else s.placeOnBoard a).1.tt = s.tt := by
      split
      · rfl
      · exact State.placeOnBoard_tt s a
    simp only []
    split
    · rw [← key]
      rfl
    · rw [key]

theorem raiseForAxle_counts {s : State} (h : s.CountsBounded) (a : Alarm) : (s.raiseForAxle a).CountsBounded := by
  unfold State.raiseForAxle
  simp only []
  split
  · exact alterBuffer_counts (raiseAlarm_counts h a) _ id
  · exact raiseAlarm_counts h a

/-- What a fold of an operation over a list keeps. -/
theorem foldl_keeps {α : Type} (P : State → Prop) {f : State → α → State} (hf : ∀ s a, P s → P (f s a)) :
    ∀ (l : List α) (s : State), P s → P (l.foldl f s)
  | [], _, h => h
  | a :: l, s, h => foldl_keeps P hf l (f s a) (hf s a h)

theorem raiseAll_counts {s : State} (h : s.CountsBounded) (as : List Alarm) :
    (as.foldl State.raiseForAxle s).CountsBounded :=
  foldl_keeps State.CountsBounded (fun _ a k => raiseForAxle_counts k a) as s h

theorem joinBuffer_counts {s : State} (h : s.CountsBounded) (b : Fin 4) : (s.joinBuffer b).CountsBounded :=
  counts_of_tt (alterBuffer_counts h b id) rfl

theorem copied_record (x : Buffer) (board : Board) :
    (x.mapVehicles.markLate.finalCopy board).record = x.record := by
  unfold Buffer.finalCopy Buffer.markLate Buffer.mapVehicles
  simp only []
  cases x.consist <;> rfl

theorem closeBuffer_counts {s : State} (h : s.CountsBounded) (b : Fin 4) : (s.closeBuffer b).CountsBounded := by
  unfold State.closeBuffer State.checkBearings
  refine joinBuffer_counts (alterBuffer_counts (raiseAll_counts (alterBuffer_counts h b id) _) b fun k => ?_) b
  rw [copied_record]
  exact k

theorem closeTrain_counts {s : State} (h : s.CountsBounded) (status : CloseStatus) :
    (s.closeTrain status).CountsBounded := by
  have closed := alterOpen_counts h (f := fun r => r.close status s.tbu.siteTime)
    (fun _ k => close_counted k _ _)
  unfold State.closeTrain
  simp only []
  split
  · next b _ =>
    have gone := trainGone_counts (alterBuffer_counts closed b (f := fun x => { x with state := .closing }) id)
    split
    · exact closeBuffer_counts gone _
    · exact gone
  · split
    · exact trainGone_counts (counts_of_tt (dropCountOnly_counts closed) (State.joinStub_tt _ _))
    · exact trainGone_counts closed

theorem evaluateClose_counts {s : State} (h : s.CountsBounded) : s.evaluateClose.CountsBounded := by
  unfold State.evaluateClose
  split
  · split
    · exact closeTrain_counts h _
    · exact h
  · exact h

theorem occupancyChanged_counts {s : State} (h : s.CountsBounded) : s.occupancyChanged.CountsBounded := by
  unfold State.occupancyChanged State.syncQuiet
  exact evaluateClose_counts (alterOpen_counts h fun _ k => k)

theorem afterOccupancy_counts {s : State} (h : s.CountsBounded) (d : Det) (before : Bool) :
    (s.afterOccupancy d before).CountsBounded := by
  unfold State.afterOccupancy
  split
  · exact occupancyChanged_counts h
  · exact h

theorem faultEntered_counts {s : State} (h : s.CountsBounded) : s.faultEntered.CountsBounded := by
  unfold State.faultEntered State.markSensorFault
  exact alterOpen_counts (raise_counts h .sensor) fun _ k => k

theorem take_counts {s : State} (h : s.CountsBounded) (q : Request) : (s.take q).CountsBounded :=
  counts_of_tt (alterEntry_counts h q.train q.axle (·.taken q.run)) rfl

theorem request_counts {s : State} (h : s.CountsBounded) (q : Request) : (s.request q).CountsBounded := by
  unfold State.request
  split
  · exact take_counts h q
  · split
    · exact counts_of_tt h rfl
    · split
      · exact alterBuffer_counts h _ fun k => k
      · exact h

/-! ### Crossings -/

theorem openTrain_counts {s : State} (h : s.CountsBounded) (dir : Dir) : (s.openTrain dir).CountsBounded := by
  have fresh : (s.openingRecord dir (succCount s.tt.trainNumber)).Counted := blank_counted
  unfold State.openTrain
  refine counts_of_tt (enterTracker_counts ?_ .opened) rfl
  simp only []
  split
  · next b _ =>
    exact counts_of_trains (alterBuffer_counts h b (f := fun _ => { Buffer.empty with
      state := .opened, record := s.openingRecord dir (succCount s.tt.trainNumber), consist := s.next })
      fun _ => fresh) rfl rfl
  · refine ⟨h.1, fun c e => ?_⟩
    cases e
    exact fresh

theorem crossOpen_counts {s : State} (h : s.CountsBounded) (c : Crossing) : (s.crossOpen c).CountsBounded := by
  unfold State.crossOpen
  split
  · exact h
  · next tr e =>
    have counted : tr.record.Counted := tracked_counted h e
    have moved := putTracked_counts h (crossTrain_counted
      (tr := { tr with record := s.timersAtCrossing (isGate c.det) tr.record }) counted c)
    simp only []
    split
    · exact request_counts moved _
    · exact moved

theorem takeCrossing_counts {s : State} (h : s.CountsBounded) (c : Crossing) : (s.takeCrossing c).CountsBounded := by
  have opens := evaluateClose_counts (crossOpen_counts (openTrain_counts h c.dir) c)
  unfold State.takeCrossing
  split
  · exact evaluateClose_counts (crossOpen_counts h c)
  · split
    · exact opens
    · split
      · exact enterTracker_counts h _
      · exact h
  · split
    · exact opens
    · exact counts_of_trains h rfl rfl

theorem takeEdge_counts {s : State} (h : s.CountsBounded) (d : Det) (e : Element) (covered : Bool) (time : Cycle) :
    (s.takeEdge d e covered time).CountsBounded := by
  have moved : (s.moveDecoder d e covered time).CountsBounded := counts_of_tt h rfl
  unfold State.takeEdge
  simp only []
  split
  · exact afterOccupancy_counts (takeCrossing_counts moved _) _ _
  · exact afterOccupancy_counts moved _ _

/-! ### Faults, service orders and the latch -/

theorem stick_counts {s : State} (h : s.CountsBounded) (d : Det) : (s.stick d).CountsBounded := by
  unfold State.stick
  exact afterOccupancy_counts (faultEntered_counts (counts_of_tt h (State.alterDetector_tt ..))) d _

theorem loseTrim_counts {s : State} (h : s.CountsBounded) : s.loseTrim.CountsBounded := by
  unfold State.loseTrim State.markUntrimmed
  have lost : State.CountsBounded { s with tbu := { s.tbu with trim := .lost } } := counts_of_tt h rfl
  exact alterOpen_counts (raise_counts lost .sensor) fun _ k => k

theorem updateBaselines_counts {s : State} (h : s.CountsBounded) : s.updateBaselines.CountsBounded := by
  unfold State.updateBaselines
  simp only []
  split
  · exact faultEntered_counts (counts_of_tt h rfl)
  · exact counts_of_tt h rfl

theorem updateAmbients_counts {s : State} (h : s.CountsBounded) : s.updateAmbients.CountsBounded := by
  unfold State.updateAmbients
  simp only []
  split
  · exact faultEntered_counts (counts_of_tt h rfl)
  · exact counts_of_tt h rfl

theorem setService_counts {s : State} (h : s.CountsBounded) (o : RunningOrder) : (s.setService o).CountsBounded := by
  have served (c : Channel) (into : Bool) : (s.serve c into).CountsBounded := by
    unfold State.serve
    simp only []
    split
    · exact afterOccupancy_counts (counts_of_tt h (State.alterDetector_tt ..)) _ _
    · exact counts_of_tt h (State.alterStrain_tt ..)
    · exact counts_of_tt h (State.alterScanner_tt ..)
  unfold State.setService
  split
  · exact counts_of_tt (served _ _) (State.finishRunning_tt ..)
  · exact counts_of_tt h (State.finishRunning_tt ..)

theorem stuckAtLatch_counts {s : State} (h : s.CountsBounded) : s.stuckAtLatch.CountsBounded := by
  unfold State.stuckAtLatch
  refine foldl_keeps State.CountsBounded (fun t i k => ?_) _ s h
  split
  · exact stick_counts k _
  · exact k

theorem averagingAtLatch_tt (s : State) (old : Settings) : (s.averagingAtLatch old).tt = s.tt := by
  unfold State.averagingAtLatch
  split <;> rfl

theorem approachAtLatch_counts {s : State} (h : s.CountsBounded) : s.approachAtLatch.CountsBounded := by
  unfold State.approachAtLatch
  split
  · split
    · exact enterTracker_counts h _
    · exact h
  · exact h

theorem listenRunsOut_tt (s : State) : s.listenRunsOut.tt = s.tt := by
  unfold State.listenRunsOut
  simp only []
  split
  · rfl
  · split <;> rfl

theorem lineAtLatch_tt (s : State) : s.lineAtLatch.tt = s.tt := by
  have runOut (c : Bool) (s t : State) (h : t.tt = s.tt) : (if c then t else s).tt = s.tt := by
    split
    · exact h
    · rfl
  unfold State.lineAtLatch
  split
  · unfold State.lineTimersAtLatch
    simp only []
    have acked := runOut s.ackDue s s.ackRunsOut rfl
    generalize (if s.ackDue then s.ackRunsOut else s) = u at acked ⊢
    have pulsed := runOut u.pulseDue u u.pulseRunsOut rfl
    generalize (if u.pulseDue then u.pulseRunsOut else u) = v at pulsed ⊢
    exact (runOut v.listenDue v v.listenRunsOut (listenRunsOut_tt v)).trans (pulsed.trans acked)
  · rfl

theorem checkHigh_tt (s : State) : s.checkHigh.tt = s.tt := by
  unfold State.checkHigh
  split <;> rfl

theorem checkLow_tt (s : State) : s.checkLow.tt = s.tt := by
  unfold State.checkLow
  split <;> rfl

theorem marksAtLatch_tt (s : State) (old : Settings) : (s.marksAtLatch old).tt = s.tt := by
  unfold State.marksAtLatch
  split
  · rfl
  · split
    · exact checkHigh_tt s
    · exact checkLow_tt s

theorem latch_counts {s : State} (h : s.CountsBounded) (c : Settings) : (s.latch c).CountsBounded := by
  have shown : (State.showSite { s with site := s.site.latch c }).CountsBounded := counts_of_tt h rfl
  have timed := approachAtLatch_counts (stuckAtLatch_counts
    (counts_of_tt shown (averagingAtLatch_tt _ s.site.settings)))
  exact counts_of_tt timed ((marksAtLatch_tt _ _).trans (lineAtLatch_tt _))

theorem counts_of_arm {s : State} (h : s.CountsBounded) (o : RunningOrder) : (s.arm o).CountsBounded := by
  unfold State.arm
  split
  · exact counts_of_tt h (State.finishRunning_tt ..)
  · simp only []
    split
    · exact counts_of_tt h (State.finishRunning_tt ..)
    · unfold State.armChecked
      split
      · exact counts_of_tt h (State.park_tt ..)
      · exact counts_of_tt (latch_counts h _) (State.finishRunning_tt ..)

theorem armWaited_counts {s : State} (h : s.CountsBounded) : s.armWaited.CountsBounded := by
  unfold State.armWaited
  split
  · split
    · exact h
    · exact counts_of_tt (latch_counts h _) (State.finishWaiting_tt ..)
  · exact h

theorem disarmOpen_counts {s : State} (h : s.CountsBounded) (o : RunningOrder) : (s.disarmOpen o).CountsBounded := by
  have closed := closeTrain_counts (counts_of_tt h (State.halt_tt s)) .cutShort
  unfold State.disarmOpen
  simp only []
  split
  · split
    · exact counts_of_tt closed (State.park_tt ..)
    · exact counts_of_tt closed (State.finishRunning_tt ..)
  · exact counts_of_tt closed (State.finishRunning_tt ..)

theorem counts_of_disarm {s : State} (h : s.CountsBounded) (o : RunningOrder) : (s.disarm o).CountsBounded := by
  have halted := counts_of_tt h (State.halt_tt s)
  unfold State.disarm
  split
  · exact counts_of_tt h (State.finishRunning_tt ..)
  · split
    · exact counts_of_tt h (State.finishRunning_tt ..)
    · exact counts_of_tt halted (State.finishRunning_tt ..)
    · exact counts_of_tt (enterTracker_counts halted .idle) (State.finishRunning_tt ..)
    · exact disarmOpen_counts h o

theorem disarmWaited_tt (s : State) : s.disarmWaited.tt = s.tt := by
  unfold State.disarmWaited
  split
  · split
    · rfl
    · exact State.finishWaiting_tt ..
  · rfl

/-! ### Orders that touch no record -/

theorem attach_counts {s : State} (h : s.CountsBounded) (o : RunningOrder) : (s.attach o).CountsBounded := by
  have answered (t : State) (k : t.CountsBounded) (oc : OrderOutcome) (r1 r2 : Word) :
      (t.finishRunning o.slot oc r1 r2).CountsBounded := counts_of_tt k (State.finishRunning_tt ..)
  have attached (t : Target) (vs : List Vehicle) : (s.attachTo o t vs).CountsBounded := by
    unfold State.attachTo State.answerAttach
    split
    · exact answered { s with next := some vs } (counts_of_tt h rfl) _ _ _
    · split
      · exact answered _ h _ _ _
      · split
        · exact answered _ h _ _ _
        · exact answered _ (alterBuffer_counts h _ id) _ _ _
  unfold State.attach
  simp only []
  split
  · exact answered _ h _ _ _
  · split
    · exact answered _ h _ _ _
    · split
      · exact answered _ h _ _ _
      · split
        · exact answered _ h _ _ _
        · split
          · exact answered _ h _ _ _
          · exact attached _ _

theorem drop_counts {s : State} (h : s.CountsBounded) (o : RunningOrder) : (s.drop o).CountsBounded := by
  have answered (t : State) (k : t.CountsBounded) (oc : OrderOutcome) (r1 r2 : Word) :
      (t.finishRunning o.slot oc r1 r2).CountsBounded := counts_of_tt k (State.finishRunning_tt ..)
  unfold State.drop
  split
  · exact answered _ h _ _ _
  · exact answered { s with next := none } (counts_of_tt h rfl) _ _ _
  · split
    · exact answered _ h _ _ _
    · split
      · exact answered _ h _ _ _
      · exact answered _ (alterBuffer_counts h _ id) _ _ _

theorem peek_tt (s : State) (o : RunningOrder) : (s.peek o).tt = s.tt := by
  unfold State.peek
  simp only []
  split
  · exact State.finishRunning_tt ..
  · split
    · exact State.finishRunning_tt ..
    · split <;> exact State.finishRunning_tt ..

theorem foldl_tt {α : Type} {f : State → α → State} (hf : ∀ s a, (f s a).tt = s.tt) (l : List α) (s : State) :
    (l.foldl f s).tt = s.tt :=
  foldl_keeps (fun t => t.tt = s.tt) (fun t a h => (hf t a).trans h) l s rfl

theorem setTime_tt (s : State) (o : RunningOrder) : (s.setTime o).tt = s.tt := by
  unfold State.setTime State.expireDue
  refine (foldl_tt (fun t p => ?_) _ _).trans (State.finishRunning_tt ..)
  split
  · exact State.expire_tt t p
  · rfl

theorem decideAlarm_tt (s : State) (o : RunningOrder) : (s.decideAlarm o).tt = s.tt := by
  unfold State.decideAlarm
  split
  · exact State.finishRunning_tt ..
  · split
    · exact State.finishRunning_tt ..
    · split
      · exact State.finishRunning_tt ..
      · split
        · exact State.finishRunning_tt ..
        · exact (State.finishRunning_tt ..).trans (State.putRecord_tt ..)

theorem clearAt_tt (s : State) (p : Fin 32) : (s.clearAt p).tt = s.tt := by
  unfold State.clearAt
  split
  · split
    · exact State.putRecord_tt ..
    · rfl
  · rfl

theorem clearStop_tt (s : State) (o : RunningOrder) : (s.clearStop o).tt = s.tt := by
  unfold State.clearStop
  split
  · exact State.finishRunning_tt ..
  · split
    · refine (State.finishRunning_tt ..).trans ?_
      unfold State.clearAll
      simp only [State.handDemand_tt, State.showStopLine_tt]
      exact foldl_tt clearAt_tt _ s
    · split
      · exact State.finishRunning_tt ..
      · split
        · exact (State.finishRunning_tt ..).trans (clearAt_tt s _)
        · exact State.finishRunning_tt ..

/-! ### Reports -/

theorem startWrite_counts {s : State} (h : s.CountsBounded) (r : HeldReport) (form : Form) (size : Nat) :
    (s.startWrite r form size).CountsBounded := by
  have writing : (match r.buffer with
      | some b => s.alterBuffer b (fun x => { x with state := .writing })
      | none => s).CountsBounded := by
    split
    · exact alterBuffer_counts h _ id
    · exact h
  have stored (c : Prop) [Decidable c] (t : State) (base : Nat) (ws : List Word) :
      (if c then t.put base ws else t).tt = t.tt ∧ (if c then t else t.put base ws).tt = t.tt := by
    constructor <;> split <;> rfl
  unfold State.startWrite
  exact counts_of_tt writing ((stored _ _ _ _).1.trans (stored _ _ _ _).2)

theorem completeWrite_counts {s : State} (h : s.CountsBounded) (w : ReportWrite) (r : HeldReport) :
    (s.completeWrite w r).CountsBounded := by
  have stored (t : State) (e : t.tt = s.tt) : t.CountsBounded := counts_of_tt h e
  unfold State.completeWrite
  simp only []
  refine counts_of_tt (raise_counts ?_ .report) (checkHigh_tt _)
  split
  · exact alterBuffer_counts (stored _ rfl) _ fun _ => blank_counted
  · exact stored _ rfl

theorem takeRelease_tt (s : State) (v : Word) : (s.takeRelease v).tt = s.tt := by
  unfold State.takeRelease
  split
  · rfl
  · simp only []
    split
    · rfl
    · exact checkLow_tt _

/-! ### Resets -/

theorem reset_counts : State.reset.CountsBounded :=
  ⟨fun b => by
    have : (State.reset.buffer b).record = TrainRecord.blank := by revert b; decide
    rw [this]
    exact blank_counted, fun _ e => nomatch e⟩

theorem commitPending_counts {s : State} (h : s.CountsBounded) : s.commitPending.CountsBounded := by
  unfold State.commitPending
  exact counts_of_tt h (foldl_tt State.expire_tt _ s)

theorem abandonSettlements_counts {s : State} (h : s.CountsBounded) : s.abandonSettlements.CountsBounded := by
  have returned : (match s.se.inFlight with
      | some f => s.alterEntry f.request.train f.request.axle (·.abandoned)
      | none => s).CountsBounded := by
    split
    · exact alterEntry_counts h _ _ _
    · exact h
  exact counts_of_trains returned rfl rfl

theorem dropTrain_counts {s : State} (h : s.CountsBounded) : s.dropTrain.CountsBounded := by
  unfold State.dropTrain
  refine enterTracker_counts ?_ .idle
  simp only []
  split
  · next b _ =>
    exact counts_of_trains (dropCountOnly_counts (alterBuffer_counts h b (f := fun _ => Buffer.empty)
      fun _ => blank_counted)) rfl rfl
  · exact dropCountOnly_counts h

theorem abortOrders_tt (s : State) : s.abortOrders.tt = s.tt := by
  have aborted (t : State) (n : Fin 16) : (t.abortSlot n).tt = t.tt := by
    unfold State.abortSlot
    split
    · rfl
    · rfl
    · exact State.finishSlot_tt ..
  unfold State.abortOrders
  simp only []
  exact foldl_tt aborted _ s

/-- Of the trains a site reset does no more than drop the open one and finish every CLOSING buffer (R47). -/
theorem siteReset_tt (s : State) :
    let t := s.commitPending.abandonSettlements.dropTrain
    s.siteReset.tt = (t.closingBuffers.foldl State.closeBuffer t).tt := by
  unfold State.siteReset
  simp only []
  rw [abortOrders_tt]

theorem siteReset_counts {s : State} (h : s.CountsBounded) : s.siteReset.CountsBounded := by
  have dropped := dropTrain_counts (abandonSettlements_counts (commitPending_counts h))
  refine counts_of_tt ?_ (siteReset_tt s)
  exact foldl_keeps State.CountsBounded (fun _ b k => closeBuffer_counts k b) _ _ dropped

theorem fullReset_counts (s : State) : s.fullReset.CountsBounded := counts_of_tt reset_counts rfl

/-! ### Every command and every step -/

/-- A command whose effect keeps the bounds keeps them. -/
theorem event_counts {s t : State} {now : Cycle} {f : State → State} (h : s.CountsBounded)
    (e : event now s f = .next t) (hf : ∀ u : State, u.CountsBounded → (f u).CountsBounded) : t.CountsBounded := by
  unfold event at e
  split at e <;> cases e
  · exact h
  · exact hf _ (counts_of_tt h (State.advance_tt ..))

/-- An effect under a condition, of a command whose effect does nothing without it. -/
theorem when_counts {s t : State} {c : Prop} [Decidable c] (h : s.CountsBounded) (k : t.CountsBounded) :
    (if c then t else s).CountsBounded := by
  split
  · exact k
  · exact h

theorem completing_counts {s : State} (h : s.CountsBounded) (k : OrderKind) {f : RunningOrder → State}
    (hf : ∀ o, (f o).CountsBounded) : (s.completing k f).CountsBounded := by
  unfold State.completing
  split
  · split
    · exact hf _
    · exact h
  · exact h

theorem settle_counts {s : State} (h : s.CountsBounded) (f : Settlement) (r : SettleResult) :
    (s.complete f r).CountsBounded :=
  counts_of_tt (raiseAll_counts (alterEntry_counts h f.request.train f.request.axle (·.settle f.request.run r))
    r.alarms) rfl

theorem takeNext_counts {s : State} (h : s.CountsBounded) : s.takeNext.CountsBounded := by
  unfold State.takeNext
  split
  · exact h
  · next q rest _ => exact take_counts (s := { s with se := { s.se with queue := rest } }) (counts_of_tt h rfl) q

theorem powerReset_counts {s t : State} {now : Cycle} {resetN : Bool} {core io : Nat} (h : s.CountsBounded)
    (e : execPowerReset now resetN core io s = .next t) : t.CountsBounded := by
  unfold execPowerReset at e
  split at e
  · split at e <;> cases e
    · unfold State.release
      exact fullReset_counts _
    · exact counts_of_tt h (State.advance_tt ..)
  · cases e
    exact counts_of_tt (fullReset_counts s) rfl

/-- Every command keeps the bounds. -/
theorem exec_counts {s t : State} {c : Instr} (h : s.CountsBounded) (e : exec c s = .next t) : t.CountsBounded := by
  cases c <;> simp only [exec] at e
  case elementEdge =>
    unfold execElementEdge at e
    exact event_counts h e (fun _ k => when_counts k (takeEdge_counts k _ _ _ _))
  case stuckTimerExpiry =>
    unfold execStuckTimerExpiry at e
    exact event_counts h e (fun _ k => when_counts k (stick_counts k _))
  case pointComplete =>
    unfold execPointComplete at e
    exact event_counts h e (fun _ k => when_counts k (counts_of_tt k (State.alterStrain_tt ..)))
  case baselineUpdate =>
    unfold execBaselineUpdate at e
    exact event_counts h e (fun _ k => when_counts k (updateBaselines_counts k))
  case flatRunExpiry =>
    unfold execFlatRunExpiry at e
    exact event_counts h e (fun _ k => when_counts k (faultEntered_counts (counts_of_tt k rfl)))
  case scannerFrame =>
    unfold execScannerFrame at e
    exact event_counts h e (fun _ k => when_counts k (counts_of_tt k rfl))
  case slotComplete =>
    unfold execSlotComplete at e
    exact event_counts h e (fun _ k => when_counts k (counts_of_tt k rfl))
  case ambientUpdate =>
    unfold execAmbientUpdate at e
    exact event_counts h e (fun _ k => when_counts k (updateAmbients_counts k))
  case linkTimerExpiry =>
    unfold execLinkTimerExpiry at e
    exact event_counts h e (fun _ k => when_counts k (faultEntered_counts (counts_of_tt k rfl)))
  case secondPulse =>
    unfold execSecondPulse at e
    exact event_counts h e (fun _ k => counts_of_tt k rfl)
  case trimLost =>
    unfold execTrimLost at e
    exact event_counts h e (fun _ k => when_counts k (loseTrim_counts k))
  case millisecondTick =>
    unfold execMillisecondTick at e
    exact event_counts h e (fun _ k => when_counts k (counts_of_tt k rfl))
  case approachTimeout =>
    unfold execApproachTimeout at e
    exact event_counts h e (fun _ k => when_counts k (enterTracker_counts k _))
  case quietTimeout =>
    unfold execQuietTimeout at e
    exact event_counts h e (fun _ k => when_counts k (closeTrain_counts k _))
  case openLimitExpiry =>
    unfold execOpenLimitExpiry at e
    exact event_counts h e (fun _ k => when_counts k (closeTrain_counts k _))
  case settlementTake =>
    unfold execSettlementTake at e
    exact event_counts h e (fun _ k => when_counts k (takeNext_counts k))
  case extraction =>
    unfold execExtraction at e
    refine event_counts h e fun u k => ?_
    split
    · exact when_counts k (counts_of_tt k rfl)
    · exact k
  case settlementComplete =>
    unfold execSettlementComplete at e
    refine event_counts h e fun u k => ?_
    split
    · split
      · exact settle_counts k _ _
      · exact k
    · exact k
  case closeComputations =>
    unfold execCloseComputations at e
    exact event_counts h e (fun _ k => when_counts k (closeBuffer_counts k _))
  case holdExpiry =>
    unfold execHoldExpiry at e
    exact event_counts h e (fun _ k => when_counts k (counts_of_tt k (State.expire_tt ..)))
  case ackEdge =>
    unfold execAckEdge at e
    exact event_counts h e (fun _ k => when_counts k (counts_of_tt k rfl))
  case ackTimeout =>
    unfold execAckTimeout at e
    exact event_counts h e (fun _ k => when_counts k (counts_of_tt k rfl))
  case pulseTimerExpiry =>
    unfold execPulseTimerExpiry at e
    exact event_counts h e (fun _ k => when_counts k (counts_of_tt k rfl))
  case listenTimerExpiry =>
    unfold execListenTimerExpiry at e
    exact event_counts h e (fun _ k => when_counts k (counts_of_tt k (listenRunsOut_tt _)))
  case reportWriteStart =>
    unfold execReportWriteStart at e
    refine event_counts h e fun u k => ?_
    split
    · exact startWrite_counts k _ _ _
    · exact k
  case reportWriteComplete =>
    unfold execReportWriteComplete at e
    refine event_counts h e fun u k => ?_
    split
    · exact completeWrite_counts k _ _
    · exact k
  case releaseWrite =>
    unfold execReleaseWrite at e
    exact event_counts h e (fun _ k => counts_of_tt k (takeRelease_tt _ _))
  case postWrite =>
    unfold execPostWrite at e
    exact event_counts h e (fun _ k => counts_of_tt k (State.takePost_tt ..))
  case orderTake =>
    unfold execOrderTake at e
    exact event_counts h e (fun _ k => counts_of_tt k (State.takeOrder_tt _))
  case arm =>
    unfold execArm at e
    exact event_counts h e (fun _ k => completing_counts k _ (counts_of_arm k))
  case waitingArmLatch =>
    unfold execWaitingArmLatch at e
    exact event_counts h e (fun _ k => armWaited_counts k)
  case disarm =>
    unfold execDisarm at e
    exact event_counts h e (fun _ k => completing_counts k _ (counts_of_disarm k))
  case waitingDisarmComplete =>
    unfold execWaitingDisarmComplete at e
    exact event_counts h e (fun _ k => counts_of_tt k (disarmWaited_tt _))
  case setTime =>
    unfold execSetTime at e
    exact event_counts h e (fun _ k => completing_counts k _ fun _ => counts_of_tt k (setTime_tt ..))
  case attachConsist =>
    unfold execAttachConsist at e
    exact event_counts h e (fun _ k => completing_counts k _ (attach_counts k))
  case dropConsist =>
    unfold execDropConsist at e
    exact event_counts h e (fun _ k => completing_counts k _ (drop_counts k))
  case decideAlarm =>
    unfold execDecideAlarm at e
    exact event_counts h e (fun _ k => completing_counts k _ fun _ => counts_of_tt k (decideAlarm_tt ..))
  case clearStop =>
    unfold execClearStop at e
    exact event_counts h e (fun _ k => completing_counts k _ fun _ => counts_of_tt k (clearStop_tt ..))
  case holdLive =>
    unfold execHoldLive at e
    exact event_counts h e (fun _ k => completing_counts k _ fun _ => counts_of_tt k (State.finishRunning_tt ..))
  case releaseLive =>
    unfold execReleaseLive at e
    exact event_counts h e (fun _ k => completing_counts k _ fun _ => counts_of_tt k (State.finishRunning_tt ..))
  case peekTrain =>
    unfold execPeekTrain at e
    exact event_counts h e (fun _ k => completing_counts k _ fun _ => counts_of_tt k (peek_tt ..))
  case setChannelService =>
    unfold execSetChannelService at e
    exact event_counts h e (fun _ k => completing_counts k _ (setService_counts k))
  case unknownKind =>
    unfold execUnknownKind at e
    refine event_counts h e fun u k => ?_
    split
    · exact when_counts k (counts_of_tt k (State.finishRunning_tt ..))
    · exact k
  case attnRead =>
    unfold execAttnRead at e
    exact event_counts h e (fun _ k => counts_of_tt k rfl)
  case attnMaskWrite =>
    unfold execAttnMaskWrite at e
    exact event_counts h e (fun _ k => counts_of_tt k rfl)
  case siteReset =>
    unfold execSiteReset at e
    exact event_counts h e (fun _ k => siteReset_counts k)
  case fullReset =>
    unfold execFullReset at e
    exact event_counts h e (fun _ _ => fullReset_counts _)
  case powerReset => exact powerReset_counts h e
  case droppedWrite =>
    unfold execDroppedWrite at e
    exact event_counts h e (fun _ k => k)
  case liveRefresh =>
    unfold execLiveRefresh at e
    exact event_counts h e (fun _ k => when_counts k (counts_of_tt k (State.refresh_tt _)))
  case holdTimerExpiry =>
    unfold execHoldTimerExpiry at e
    exact event_counts h e (fun _ k => when_counts k (counts_of_tt k rfl))
  case hostStore =>
    unfold execHostStore at e
    exact event_counts h e (fun _ k => when_counts k (counts_of_tt k rfl))

/-- A property that every command keeps, that is not about the queue, and that the passing of a cycle keeps is kept by
every step. -/
theorem keptByEveryStep_of_exec {P : State → Prop} (hc : ∀ (c : Instr) (s t : State), P s → exec c s = .next t → P t)
    (hq : ∀ (s : State) (q : List Instr), P s → P { s with pending := q })
    (ha : ∀ (s : State) (now : Cycle), P s → P (s.advance now)) :
    KeptByEveryStep P := by
  intro s t h e
  unfold step at e
  split at e
  · exact hc _ _ _ (hq _ _ h) e
  · unfold State.ownStep at e
    split at e
    · exact hc _ _ _ h e
    · cases e
      unfold State.passCycle
      split
      · exact h
      · exact ha _ _ h

/-- Settles O54: every operation that writes a train's record keeps the bounds of R29, so every command does. -/
theorem trainCountsStayBounded : Obligations.TrainCountsStayBounded :=
  keptByEveryStep_of_exec (fun _ _ _ => exec_counts) (fun _ _ h => counts_of_tt h rfl)
    (fun _ _ h => counts_of_tt h (State.advance_tt ..))

end Sys2Proof.Machine.TrainProofs
end

section
/-!
PROOFS. The state after reset has the invariants (O60).
-/

namespace Sys2Proof.Machine.TrainProofs

open Sys2Proof

/-- No check of R184 fails on the defaults of section 10.2. -/
theorem defaults_pass (k : Nat) : ¬Settings.defaults.Fails k := by
  have gains : ¬∃ i : Fin 16, Settings.defaults.gains.get i = 0 := by decide
  have cribs : ¬∃ i : Fin 16, (2 * Settings.defaults.cribs.get i : Int) - Settings.defaults.cribWindow <
      2 * Settings.defaults.g1 ∨ 2 * Settings.defaults.g3 <
      2 * Settings.defaults.cribs.get i + Settings.defaults.cribWindow := by decide
  have scanners : ¬∃ i : Fin 4, (2 * Settings.defaults.scanners.get i : Int) - Settings.defaults.scanWindow <
      2 * Settings.defaults.g1 ∨ 2 * Settings.defaults.g3 <
      2 * Settings.defaults.scanners.get i + Settings.defaults.scanWindow := by decide
  rintro (⟨_, h⟩ | ⟨_, h⟩ | ⟨_, h⟩ | ⟨_, h⟩ | ⟨_, h⟩ | ⟨_, h⟩ | ⟨_, h⟩ | ⟨_, h⟩ | ⟨_, h⟩ | ⟨_, h⟩ | ⟨_, h⟩)
  case inr.inr.inr.inl => exact gains h
  case inr.inr.inr.inr.inr.inr.inr.inr.inl => exact cribs h
  case inr.inr.inr.inr.inr.inr.inr.inr.inr.inl => exact scanners h
  all_goals exact absurd h (by decide)

theorem defaults_sound : Settings.defaults.Sound :=
  ⟨by decide, by decide, defaults_pass⟩

theorem reset_keys : State.reset.KeysDistinct := by
  have empty : ∀ p : Fin 32, State.reset.ab.positions.get p = none := by decide
  intro p q r t hp
  rw [empty p] at hp
  cases hp

theorem reset_orders : State.reset.OrdersSound := by
  unfold State.OrdersSound
  decide

theorem reset_buffers : State.reset.BuffersSound :=
  ⟨by decide, by decide, by decide, fun _ d => by cases d <;> rfl, by decide, by decide, by decide⟩

/-- Settles O60: the reset state is a closed term, so each invariant is evaluated. -/
theorem resetMeetsEveryInvariant : Obligations.ResetMeetsEveryInvariant :=
  ⟨State.reset_mem_wf, reset_counts, rfl, reset_keys, reset_orders, reset_buffers,
    ⟨by decide, by decide, fun _ h => nomatch h⟩, defaults_sound, fun _ _ _ h => nomatch h⟩

end Sys2Proof.Machine.TrainProofs
end

section
/-!
PROOFS. The open train as crossings and timers move it: where its record stands, what a change of it does, and how the
close conditions are evaluated. The statements about crossings (O7 to O10) and about the timers (O22) rest on these.
-/

namespace Sys2Proof.Machine.TrainProofs

open Sys2Proof

/-! ### Detectors -/

theorem withDetectors_detector (s : State) (ds : Det → Detector) (d : Det) : (s.withDetectors ds).detector d = ds d := by
  unfold State.withDetectors State.detector
  cases d <;> rfl

/-- The detectors of a part are what its five places hold. -/
theorem wdi_eq_of_detector {s : State} {ds : Det → Detector} (h : ∀ d, s.detector d = ds d) :
    s.wdi = Vector.ofFn (fun i => ds (detOf i)) := by
  apply vector_ext_get
  intro i
  have e := h (detOf i)
  unfold State.detector at e
  rw [detIndex_detOf] at e
  rw [e, vector_get_eq, Vector.getElem_ofFn]

theorem withDetectors_self (s : State) : s.withDetectors s.detector = s := by
  unfold State.withDetectors
  rw [← wdi_eq_of_detector (fun _ => rfl)]

theorem tracked_iff (d : Detector) : d.tracked = true ↔ d.decoder ≠ .clear ∧ d.service = .inService := by
  unfold Detector.tracked
  simp

/-- The gates are clear exactly when none of them is tracking-occupied (R40). -/
theorem gatesClear_iff (s : State) : s.gatesClear = true ↔ GatesFree s.detector := by
  have free (d : Detector) : d.tracked = false ↔ d.decoder = .clear ∨ d.service ≠ .inService := by
    rw [← Bool.not_eq_true, tracked_iff]
    tauto
  unfold State.gatesClear GatesFree
  simp only [Bool.and_eq_true, Bool.not_eq_true', free, List.mem_cons, List.not_mem_nil, or_false]
  constructor
  · rintro ⟨⟨h1, h2⟩, h3⟩ g (rfl | rfl | rfl) <;> assumption
  · intro h
    exact ⟨⟨h _ (.inl rfl), h _ (.inr (.inl rfl))⟩, h _ (.inr (.inr rfl))⟩

/-- The stuck timers as the tracker enters IDLE (R7). -/
theorem onTracker_eq_supervised (d : Detector) (now : Cycle) : d.onTracker false now = d.supervised now := by
  have h := tracked_iff d
  unfold Detector.onTracker Detector.supervised
  by_cases t : d.tracked = true
  · rw [if_pos (h.1 t)]
    cases k : d.stuckTimer <;> simp [t]
    rw [← k]
  · rw [if_neg (fun c => t (h.2 c))]
    simp [t]

theorem enterTracker_idle (s : State) : s.enterTracker .idle =
    { s.withDetectors (fun d => (s.detector d).supervised s.tbu.cycle) with tt := { s.tt with tracker := .idle } } := by
  have wdi : (alterAll s.wdi (fun d => d.onTracker false s.tbu.cycle)) =
      Vector.ofFn (fun i => (s.detector (detOf i)).supervised s.tbu.cycle) := by
    apply vector_ext_get
    intro i
    rw [alterAll_get, vector_get_eq (Vector.ofFn _), Vector.getElem_ofFn, onTracker_eq_supervised]
    unfold State.detector
    rw [detIndex_detOf]
  unfold State.enterTracker State.withDetectors
  simp [wdi]

/-! ### Buffers -/

theorem withBuffer_self (s : State) (b : Fin 4) (x : Buffer) : (s.withBuffer b x).buffer b = x := by
  unfold State.withBuffer State.buffer
  simp only []
  rw [vector_get_eq, Vector.getElem_ofFn]
  simp

theorem withBuffer_other (s : State) {a b : Fin 4} (h : a ≠ b) (x : Buffer) :
    (s.withBuffer b x).buffer a = s.buffer a := by
  unfold State.withBuffer State.buffer
  simp only []
  rw [vector_get_eq, Vector.getElem_ofFn]
  simp [h]

theorem alterBuffer_eq_withBuffer (s : State) (b : Fin 4) (f : Buffer → Buffer) :
    s.alterBuffer b f = s.withBuffer b (f (s.buffer b)) := by
  have e : alter s.tt.buffers b f =
      Vector.ofFn (fun a => if a = b then f (s.buffer b) else s.buffer a) := by
    apply vector_ext_get
    intro a
    rw [vector_get_eq (Vector.ofFn _), Vector.getElem_ofFn]
    by_cases h : a = b
    · subst h
      simp [State.buffer]
    · rw [alter_get_ne _ _ _ _ h]
      simp [h, State.buffer]
  unfold State.alterBuffer State.withBuffer
  rw [e]

theorem withBuffer_withBuffer (s : State) (b : Fin 4) (x y : Buffer) :
    (s.withBuffer b x).withBuffer b y = s.withBuffer b y := by
  have e : (fun a => if a = b then y else (s.withBuffer b x).buffer a) =
      fun a => if a = b then y else s.buffer a := by
    funext a
    by_cases h : a = b
    · simp [h]
    · rw [if_neg h, if_neg h, withBuffer_other s h]
  unfold State.withBuffer at e ⊢
  simp only [e]

/-! ### Where the open train stands -/

section
variable {s : State} {place : Option (Fin 4)} {r : TrainRecord} {axles : List AxleEntry}

/-- The buffer of the open train is the one in OPENED. -/
theorem bufferIn_opened (h : s.OpenTrain place r axles) : s.bufferIn .opened = place := by
  obtain ⟨_, h⟩ := h
  cases place with
  | none =>
    cases e : s.bufferIn .opened with
    | none => rfl
    | some a => exact absurd (State.bufferIn_some e) (h.1 a)
  | some b =>
    obtain ⟨only, _⟩ := h
    cases e : s.bufferIn .opened with
    | none => exact absurd ((only b).2 rfl) (State.bufferIn_none e b)
    | some a => rw [(only a).1 (State.bufferIn_some e)]

theorem openRecord_eq (h : s.OpenTrain place r axles) : s.openRecord = some r := by
  unfold State.openRecord
  rw [bufferIn_opened h]
  obtain ⟨_, h⟩ := h
  cases place with
  | none => exact h.2.1
  | some b => exact congrArg some h.2.2.1

theorem tracked_eq (h : s.OpenTrain place r axles) : s.tracked = some ⟨r, axles, place.isSome⟩ := by
  unfold State.tracked
  rw [bufferIn_opened h]
  obtain ⟨_, h⟩ := h
  cases place with
  | none =>
    obtain ⟨_, hc, rfl⟩ := h
    obtain ⟨c, e, rfl⟩ := Option.map_eq_some_iff.1 hc
    simp [e]
  | some b =>
    obtain ⟨_, _, rfl, rfl⟩ := h
    rfl

/-- A count-only train has no axle table (R27). -/
theorem countOnly_axles (h : s.OpenTrain none r axles) : axles = [] := h.2.2.2

/-- The open train with another record and axle table. -/
theorem withOpenTrain_openTrain (h : s.OpenTrain place r axles) (r' : TrainRecord) (axles' : List AxleEntry)
    (ha : place = none → axles' = []) : (s.withOpenTrain place r' axles').OpenTrain place r' axles' := by
  obtain ⟨ht, h⟩ := h
  cases place with
  | none =>
    obtain ⟨c, hc, _⟩ := Option.map_eq_some_iff.1 h.2.1
    exact ⟨ht, h.1, by simp [State.withOpenTrain, hc], ha rfl⟩
  | some b =>
    obtain ⟨only, hc, _⟩ := h
    have same (a : Fin 4) : ((s.withOpenTrain (some b) r' axles').buffer a).state = (s.buffer a).state := by
      unfold State.withOpenTrain
      by_cases e : a = b
      · subst e
        simp [withBuffer_self]
      · simp [withBuffer_other s e]
    refine ⟨ht, fun a => by rw [same a]; exact only a, hc, ?_, ?_⟩ <;>
      simp [State.withOpenTrain, withBuffer_self]

theorem withOpenTrain_self (h : s.OpenTrain place r axles) : s.withOpenTrain place r axles = s := by
  obtain ⟨_, h⟩ := h
  cases place with
  | none =>
    obtain ⟨c, hc, rfl⟩ := Option.map_eq_some_iff.1 h.2.1
    have e : s.tt = { s.tt with countOnly := some c } := by rw [← hc]
    simp only [State.withOpenTrain, hc, Option.map_some]
    rw [← e]
  | some b =>
    obtain ⟨_, _, rfl, rfl⟩ := h
    have e := alterBuffer_eq_withBuffer s b id
    have k : alter s.tt.buffers b id = s.tt.buffers := by
      apply vector_ext_get
      intro a
      by_cases h : a = b
      · subst h
        simp
      · exact alter_get_ne _ _ _ _ h
    unfold State.alterBuffer at e
    rw [k] at e
    exact e.symm

theorem withOpenTrain_withOpenTrain (s : State) (place : Option (Fin 4)) (r r' : TrainRecord)
    (axles axles' : List AxleEntry) :
    (s.withOpenTrain place r axles).withOpenTrain place r' axles' = s.withOpenTrain place r' axles' := by
  cases place with
  | none =>
    simp only [State.withOpenTrain, Option.map_map]
    rfl
  | some b => simp [State.withOpenTrain, withBuffer_withBuffer, withBuffer_self]

theorem putTracked_eq (h : s.OpenTrain place r axles) (tr : Tracked) :
    s.putTracked tr = s.withOpenTrain place tr.record tr.axles := by
  unfold State.putTracked
  rw [bufferIn_opened h]
  cases place with
  | none => rfl
  | some b => exact alterBuffer_eq_withBuffer s b _

theorem alterOpen_eq (h : s.OpenTrain place r axles) (f : TrainRecord → TrainRecord) :
    s.alterOpen f = s.withOpenTrain place (f r) axles := by
  unfold State.alterOpen
  rw [bufferIn_opened h]
  obtain ⟨_, h⟩ := h
  cases place with
  | none =>
    obtain ⟨c, hc, rfl⟩ := Option.map_eq_some_iff.1 h.2.1
    simp [State.withOpenTrain, hc]
  | some b =>
    obtain ⟨_, _, rfl, rfl⟩ := h
    exact alterBuffer_eq_withBuffer s b _

theorem withDetectors_openTrain (h : s.OpenTrain place r axles) (ds : Det → Detector) :
    (s.withDetectors ds).OpenTrain place r axles := h

end

/-! ### The close of the open train (R40, R43 to R45) -/

/-- A close ends the timers whatever they were: it does not see the quiet timer of R41. -/
theorem closeTrain_syncQuiet {s : State} {place : Option (Fin 4)} {r : TrainRecord} {axles : List AxleEntry}
    (h : s.OpenTrain place r axles) (status : CloseStatus) : s.syncQuiet.closeTrain status = s.closeTrain status := by
  have ha : place = none → axles = [] := fun e => countOnly_axles (e ▸ h)
  have closed : s.syncQuiet.alterOpen (fun r => r.close status s.syncQuiet.tbu.siteTime) =
      s.alterOpen (fun r => r.close status s.tbu.siteTime) := by
    have sync : s.syncQuiet =
        s.withOpenTrain place { r with quiet := r.quiet.sync s.gatesClear s.tbu.cycle } axles := alterOpen_eq h _
    rw [sync, alterOpen_eq (withOpenTrain_openTrain h _ axles ha), withOpenTrain_withOpenTrain, alterOpen_eq h]
    cases place <;> rfl
  unfold State.closeTrain
  rw [closed]

end Sys2Proof.Machine.TrainProofs
end

section
/-!
PROOFS. Reports at a close: the header of a train's report (R138), its place in the held queue (R141), and the
journal's words of the site header (R154). The stub of a count-only train (O7 to O10, O22) and the report of a buffer
(O26) both rest on these.
-/

namespace Sys2Proof.Machine.TrainProofs

open Sys2Proof

/-! ### The held queue (R141) -/

theorem joinHeld_eq_placedByNumber (h : HeldReport) : ∀ held : List HeldReport,
    joinHeld h held = placedByNumber h held
  | [] => rfl
  | x :: xs => by
    have ih := joinHeld_eq_placedByNumber h xs
    unfold placedByNumber at ih
    unfold joinHeld placedByNumber
    cases e : below h.header.number x.header.number
    · rw [List.takeWhile_cons_of_pos (by simp [e]), List.dropWhile_cons_of_pos (by simp [e]), ih]
      rfl
    · rw [List.takeWhile_cons_of_neg (by simp [e]), List.dropWhile_cons_of_neg (by simp [e])]
      rfl

theorem placedByNumber_perm (h : HeldReport) (held : List HeldReport) : (placedByNumber h held).Perm (h :: held) := by
  unfold placedByNumber
  refine List.perm_middle.trans ?_
  rw [List.takeWhile_append_dropWhile]

theorem placedByNumber_length (h : HeldReport) (held : List HeldReport) :
    (placedByNumber h held).length = held.length + 1 :=
  (placedByNumber_perm h held).length_eq

theorem mem_placedByNumber (h : HeldReport) (held : List HeldReport) : h ∈ placedByNumber h held :=
  (placedByNumber_perm h held).mem_iff.2 List.mem_cons_self

/-! ### Headers (R138) -/

/-- The load an entry is weighed with: its axle load, when it is in the weighing range (R64, R138). -/
def weighedWith (e : AxleEntry) : Option Nat :=
  e.load.bind (fun l => if l.outOfRange then none else l.axleLoad)

theorem weighed_eq (e : AxleEntry) : e.weighed = (weighedWith e).isSome := by
  unfold AxleEntry.weighed weighedWith LoadResult.weighed
  cases e.load with
  | none => rfl
  | some l => cases k : l.outOfRange <;> simp [k]

theorem weighedLoad_eq (e : AxleEntry) : e.weighedLoad = (weighedWith e).getD 0 := by
  unfold AxleEntry.weighedLoad weighedWith LoadResult.weighed
  cases e.load with
  | none => rfl
  | some l =>
    cases k : l.outOfRange <;> simp [k]
    cases l.axleLoad <;> simp

theorem countP_weighed (axles : List AxleEntry) :
    axles.countP (·.weighed) = (axles.filterMap weighedWith).length := by
  rw [List.length_filterMap_eq_countP]
  congr 1
  funext e
  exact weighed_eq e

theorem sum_weighedLoad (axles : List AxleEntry) :
    (axles.map AxleEntry.weighedLoad).sum = (axles.filterMap weighedWith).sum := by
  induction axles with
  | nil => rfl
  | cons e axles ih =>
    rw [List.map_cons, List.sum_cons, ih, weighedLoad_eq, List.filterMap_cons]
    cases weighedWith e <;> simp

theorem meanOf_eq (xs : List Nat) :
    meanOf xs = if xs = [] then none else some ((xs.sum + xs.length / 2) / xs.length) := by
  unfold meanOf
  simp only [List.length_eq_zero_iff]

/-- The header of a closed train's report is the one of R138. -/
theorem headerOf_ofTrain (r : TrainRecord) (axles : List AxleEntry) (alarms : List AlarmEntry) (unlisted : Nat)
    (boardFull : Bool) (vehicles : Option Nat) (mismatch : Bool) (hs : r.status ≠ none) (hc : r.closeTime ≠ none) :
    (headerOf r axles alarms unlisted boardFull vehicles mismatch).OfTrain r axles alarms := by
  obtain ⟨status, es⟩ := Option.ne_none_iff_exists'.1 hs
  obtain ⟨time, ec⟩ := Option.ne_none_iff_exists'.1 hc
  unfold headerOf ReportHeader.OfTrain
  refine ⟨rfl, rfl, by simp [es], rfl, by simp [ec], rfl, rfl, rfl, rfl, least_eq_min? _, peakLoad_eq_max? _,
    meanOf_eq _, sum_weighedLoad axles, ?_, rfl, rfl, rfl, rfl, rfl, rfl, rfl, rfl, rfl, rfl, rfl, rfl⟩
  simp only [countP_weighed]
  rfl

/-! ### The journal's words of the site header (R154) -/

theorem countWord_toNat (n : Nat) : (countWord n).toNat = min n 4294967295 := by
  unfold countWord
  rw [BitVec.toNat_ofNat, Nat.mod_eq_of_lt (by omega)]

/-- The word of the held queue's counts and *high armed* (R194). -/
theorem heldWord_toNat (held stubs : Nat) (armed : Bool) :
    (pack [(0, 8, held), (8, 8, stubs), (16, 1, bit armed)]).toNat =
      min held 255 + (min stubs 255 * 256 + (min (flag (armed = true)) 1 * 65536)) := by
  have b : bit armed = flag (armed = true) := by cases armed <;> rfl
  unfold pack
  simp only [List.map_cons, List.map_nil, List.sum_cons, List.sum_nil, bitField, b]
  rw [BitVec.toNat_ofNat, Nat.mod_eq_of_lt (by omega)]
  omega

/-- What the journal's words show after a write of them, and what the write leaves alone (R154). -/
theorem showJournal_spec (s : State) :
    s.showJournal.mem.readWord 0 = s.rpw.lastWritten ∧ s.showJournal.mem.Shows 8 6 s.rpw.siteItems ∧
      s.mem.SameOutside s.showJournal.mem 0 0x20 ∧ s.showJournal.mem.readWord 4 = s.mem.readWord 4 := by
  refine ⟨?_, ?_, fun a ha => State.showJournal_outside s (by omega), ?_⟩
  · exact State.put_readWord_inside (s.put (headerBase + 0x08) s.rpw.headerWords) headerBase [s.rpw.lastWritten] 0
      (by simp)
  · intro k hk
    have inner : s.showJournal.mem.readWord (8 + 4 * k) = s.rpw.headerWords[k] := by
      unfold State.showJournal
      rw [State.put_readWord_outside _ _ _ _ (by simp only [headerBase, List.length_cons, List.length_nil]; omega)]
      exact State.put_readWord_inside s (headerBase + 0x08) s.rpw.headerWords k hk
    rw [inner]
    have full (w : Word) : w.toNat = min w.toNat (2 ^ 32 - 1) := by have := w.isLt; omega
    have accepted := full s.rpw.accepted
    interval_cases k <;> simp [Reports.headerWords, Reports.siteItems, countWord_toNat, heldWord_toNat]
    all_goals omega
  · unfold Memory.readWord
    rw [State.showJournal_outside s (.inl (by omega)), State.showJournal_outside s (.inl (by omega)),
      State.showJournal_outside s (.inl (by omega)), State.showJournal_outside s (.inl (by omega))]

end Sys2Proof.Machine.TrainProofs
end

section
/-!
PROOFS. What the alarms of a close leave alone and what the close computations do to the buffers (R44, R99): the frame
that the statements about closes (O7 to O10, O22, O26) rest on.
-/

namespace Sys2Proof.Machine.TrainProofs

open Sys2Proof

/-! ### The frame of an alarm (R99) -/

/-- From `s` to `t` alarms have been handed to the AB: of the trains only the buffers, and beside them the board, the
stop line, the memory and more pending causes, have changed. -/
def AlarmsOnly (s t : State) : Prop :=
  ∃ (buffers : Vector Buffer 4) (ab : Board) (sli : StopLine) (mem : Memory) (atu : Attention),
    t = { s with tt := { s.tt with buffers := buffers }, ab := ab, sli := sli, mem := mem, atu := atu } ∧
    ∃ more : BitVec 8, atu = { s.atu with pending := s.atu.pending ||| more }

theorem AlarmsOnly.refl (s : State) : AlarmsOnly s s := ⟨_, _, _, _, _, rfl, 0, by simp⟩

theorem AlarmsOnly.trans {s t u : State} (h : AlarmsOnly s t) (k : AlarmsOnly t u) : AlarmsOnly s u := by
  obtain ⟨_, _, _, _, _, rfl, x, rfl⟩ := h
  obtain ⟨_, _, _, _, _, rfl, y, rfl⟩ := k
  exact ⟨_, _, _, _, _, rfl, x ||| y, by simp [BitVec.or_assoc]⟩

theorem AlarmsOnly.raise (s : State) (c : Cause) : AlarmsOnly s (s.raise c) := ⟨_, _, _, _, _, rfl, c.bit, rfl⟩

/-- A change of the board, the stop line and the memory. -/
theorem AlarmsOnly.board (s : State) (ab : Board) (sli : StopLine) (mem : Memory) :
    AlarmsOnly s { s with ab := ab, sli := sli, mem := mem } := ⟨_, _, _, _, _, rfl, 0, by simp⟩

theorem AlarmsOnly.alterBuffer (s : State) (b : Fin 4) (f : Buffer → Buffer) : AlarmsOnly s (s.alterBuffer b f) :=
  ⟨_, _, _, _, _, rfl, 0, by simp⟩

theorem AlarmsOnly.handDemand (s : State) : AlarmsOnly s s.handDemand := by
  rw [State.handDemand_frame]
  exact .board s _ _ _

/-- A pending cause stays pending. -/
theorem AlarmsOnly.pending {s t : State} (h : AlarmsOnly s t) {c : BitVec 8} (k : s.atu.pending &&& c = c) :
    t.atu.pending &&& c = c := by
  obtain ⟨_, _, _, _, _, rfl, x, rfl⟩ := h
  show (s.atu.pending ||| x) &&& c = c
  ext i hi
  have bit := congrArg (fun v : BitVec 8 => v.getLsbD i) k
  simp at bit ⊢
  intro on
  simp [bit on]

theorem alarmsOnly_putRecord (s : State) (p : Fin 32) (r : AlarmRecord) : AlarmsOnly s (s.putRecord p r) := by
  unfold State.putRecord
  simp only []
  split
  · exact .refl s
  · refine .trans ?_ (.handDemand _)
    have mirrored : AlarmsOnly s (State.mirror
        { s with ab := { s.ab with positions := s.ab.positions.set p.val (some r) p.isLt } } p) := .board s _ _ _
    have attended (t : State) : AlarmsOnly t (if attends (s.ab.positions.get p) r then t.raise .alarm else t) := by
      split
      · exact .raise t _
      · exact .refl t
    have committed (t : State) : AlarmsOnly t (if commits (s.ab.positions.get p) r then t.commitEvent else t) := by
      split
      · exact .board t _ _ _
      · exact .refl t
    exact (mirrored.trans (attended _)).trans (committed _)

theorem alarmsOnly_mirrorAll (ps : List (Fin 32)) : ∀ s : State, AlarmsOnly s (ps.foldl State.mirror s) := by
  induction ps with
  | nil => exact fun s => .refl s
  | cons p ps ih => exact fun s => .trans (.board s _ _ _) (ih _)

theorem alarmsOnly_createAt (s : State) (p : Fin 32) (a : Alarm) : AlarmsOnly s (s.createAt p a) :=
  .trans (.board s _ _ _) (alarmsOnly_putRecord _ p _)

theorem alarmsOnly_placeOnBoard (s : State) (a : Alarm) : AlarmsOnly s (s.placeOnBoard a).1 := by
  unfold State.placeOnBoard
  split
  · split
    · exact alarmsOnly_putRecord _ _ _
    · exact .refl s
  · split
    · exact alarmsOnly_createAt _ _ _
    · split
      · exact .trans (.trans (.board s _ _ _) (alarmsOnly_createAt _ _ _)) (alarmsOnly_mirrorAll _ _)
      · simp only []
        split
        · unfold State.refuseStop
          refine .trans (.trans ?_ (.board _ _ _ _)) (.handDemand _)
          exact .trans (.board s _ _ _) (.raise _ _)
        · exact .refl s

theorem alarmsOnly_raiseAlarm (s : State) (a : Alarm) : AlarmsOnly s (s.raiseAlarm a) := by
  have placed : AlarmsOnly s (if a.level = .note then (s, false) else s.placeOnBoard a).1 := by
    split
    · exact .refl s
    · exact alarmsOnly_placeOnBoard s a
  unfold State.raiseAlarm
  simp only []
  split
  · exact placed.trans (.alterBuffer _ _ _)
  · exact placed

theorem alarmsOnly_raiseForAxle (s : State) (a : Alarm) : AlarmsOnly s (s.raiseForAxle a) := by
  unfold State.raiseForAxle
  simp only []
  split
  · exact (alarmsOnly_raiseAlarm s a).trans (.alterBuffer _ _ _)
  · exact alarmsOnly_raiseAlarm s a

theorem alarmsOnly_raiseAll (as : List Alarm) (s : State) : AlarmsOnly s (as.foldl State.raiseForAxle s) :=
  foldl_keeps (AlarmsOnly s) (fun t a h => h.trans (alarmsOnly_raiseForAxle t a)) as s (.refl s)

/-! ### What an alarm does to the buffers (R99 to R101) -/

/-- A buffer before and after alarms of its train: of its axle entries only the alarm bits, and beside them its alarm
entry list with the list's counters, have changed. -/
def BufferAlarmed (x y : Buffer) : Prop :=
  y = { x with axles := y.axles, alarms := y.alarms, unlistedEntries := y.unlistedEntries, boardFull := y.boardFull } ∧
  y.axles.length = x.axles.length

theorem BufferAlarmed.refl (x : Buffer) : BufferAlarmed x x := ⟨rfl, rfl⟩

theorem BufferAlarmed.trans {x y z : Buffer} (h : BufferAlarmed x y) (k : BufferAlarmed y z) : BufferAlarmed x z := by
  obtain ⟨e, l⟩ := h
  obtain ⟨e', l'⟩ := k
  refine ⟨?_, l'.trans l⟩
  rw [e'] at *
  rw [e]

theorem BufferAlarmed.state {x y : Buffer} (h : BufferAlarmed x y) : y.state = x.state := by rw [h.1]
theorem BufferAlarmed.record {x y : Buffer} (h : BufferAlarmed x y) : y.record = x.record := by rw [h.1]
theorem BufferAlarmed.consist {x y : Buffer} (h : BufferAlarmed x y) : y.consist = x.consist := by rw [h.1]

theorem raiseAlarm_alarmed (s : State) (a : Alarm) (b : Fin 4) :
    BufferAlarmed (s.buffer b) ((s.raiseAlarm a).buffer b) := by
  rw [State.raiseAlarm_buffer]
  exact ⟨rfl, rfl⟩

theorem raiseForAxle_alarmed (s : State) (a : Alarm) (b : Fin 4) :
    BufferAlarmed (s.buffer b) ((s.raiseForAxle a).buffer b) := by
  unfold State.raiseForAxle
  simp only []
  split
  · next c _ =>
    by_cases e : b = c
    · subst e
      rw [State.alterBuffer_self]
      exact (raiseAlarm_alarmed s a b).trans ⟨rfl, by simp [Buffer.alterAxle]⟩
    · rw [State.alterBuffer_other _ _ _ _ e]
      exact raiseAlarm_alarmed s a b
  · exact raiseAlarm_alarmed s a b

theorem raiseAll_alarmed (as : List Alarm) (s : State) (b : Fin 4) :
    BufferAlarmed (s.buffer b) ((as.foldl State.raiseForAxle s).buffer b) :=
  foldl_keeps (fun t => BufferAlarmed (s.buffer b) (t.buffer b)) (fun t a h => h.trans (raiseForAxle_alarmed t a b))
    as s (.refl _)

/-- An alarm changes no buffer but its train's (R99). -/
theorem raiseForAxle_other {s : State} {a : Alarm} {b c : Fin 4} (h : s.bufferOf a.train = some b) (k : c ≠ b) :
    (s.raiseForAxle a).buffer c = s.buffer c := by
  have find : (s.raiseAlarm a).bufferOf a.train = some b := by
    rw [State.bufferOf_congr (fun d => (raiseAlarm_alarmed s a d).state)
      (fun d => congrArg _ (raiseAlarm_alarmed s a d).record), h]
  have listed : (s.raiseAlarm a).buffer c = s.buffer c := by
    have placed : (if a.level = .note then (s, false) else s.placeOnBoard a).1.tt = s.tt := by
      split
      · rfl
      · exact State.placeOnBoard_tt s a
    have same : (if a.level = .note then (s, false) else s.placeOnBoard a).1.bufferOf a.train = some b := by
      rw [← h]
      unfold State.bufferOf State.buffer
      rw [placed]
    unfold State.raiseAlarm
    simp only [same]
    rw [State.alterBuffer_other _ _ _ _ k]
    unfold State.buffer
    rw [placed]
  unfold State.raiseForAxle
  simp only [find]
  rw [State.alterBuffer_other _ _ _ _ k, listed]

theorem raiseAll_other {s : State} {as : List Alarm} {b c : Fin 4} (h : ∀ a ∈ as, s.bufferOf a.train = some b)
    (k : c ≠ b) : (as.foldl State.raiseForAxle s).buffer c = s.buffer c := by
  induction as generalizing s with
  | nil => rfl
  | cons a as ih =>
    rw [List.foldl_cons, ih, raiseForAxle_other (h a List.mem_cons_self) k]
    intro a' m
    rw [State.bufferOf_congr (fun d => (raiseForAxle_alarmed s a d).state)
      (fun d => congrArg _ (raiseForAxle_alarmed s a d).record)]
    exact h a' (List.mem_cons_of_mem _ m)

/-! ### The close computations of a buffer (R44) -/

/-- The alarms of the BEARING_DIFF check are the train's own (R83). -/
theorem diffAlarms_train {warn : Nat} {train : Word} {axles : List AxleEntry} {a : Alarm}
    (h : a ∈ diffAlarms warn train axles) : a.train = train := by
  have raised {i : Nat} {e : AxleEntry} {place : Fin 4} {rail : Rail}
      (k : a ∈ (diffAlarm warn train axles i e place rail).toList) : a.train = train := by
    unfold diffAlarm at k
    obtain ⟨d, _, k⟩ := Option.bind_eq_some_iff.1 (Option.mem_toList.1 k)
    split at k
    · cases k
      rfl
    · cases k
  obtain ⟨_, _, k⟩ := List.mem_flatMap.1 h
  exact (List.mem_append.1 k).elim raised raised

/-- The buffer of the one train of a number, OPEN or CLOSING. -/
theorem bufferOf_eq {s : State} {b : Fin 4} {train : Word} (hn : (s.buffer b).record.number = train)
    (hs : (s.buffer b).state = .opened ∨ (s.buffer b).state = .closing)
    (only : ∀ a : Fin 4, a ≠ b → (s.buffer a).record.number = train →
      (s.buffer a).state ≠ .opened ∧ (s.buffer a).state ≠ .closing) : s.bufferOf train = some b := by
  cases e : s.bufferOf train with
  | none =>
    have := List.find?_eq_none.1 e b (List.mem_finRange b)
    simp_all
  | some a =>
    have found := List.find?_some e
    simp only [Bool.and_eq_true, Bool.or_eq_true, beq_iff_eq] at found
    by_contra k
    have := only a (fun h => k (by rw [h])) found.1
    tauto

/-- The machine after the bogies of a closing buffer are grouped and its BEARING_DIFF alarms raised (R44). -/
def judged (s : State) (b : Fin 4) : State := (s.groupBuffer b).checkBearings b

theorem closeBuffer_eq (s : State) (b : Fin 4) :
    s.closeBuffer b = State.joinBuffer ((judged s b).alterBuffer b
      (fun x => x.mapVehicles.markLate.finalCopy (judged s b).ab)) b := rfl

theorem alarmsOnly_judged (s : State) (b : Fin 4) : AlarmsOnly s (judged s b) := by
  unfold judged State.checkBearings State.groupBuffer
  exact .trans (.alterBuffer s b _) (alarmsOnly_raiseAll _ _)

/-- The buffers before the report of one of them joins. -/
theorem closeBuffer_self (s : State) (b : Fin 4) : (s.closeBuffer b).buffer b =
    { ((judged s b).buffer b).mapVehicles.markLate.finalCopy (judged s b).ab with state := .held } := by
  rw [closeBuffer_eq]
  show ((State.alterBuffer _ b _).alterBuffer b _).buffer b = _
  rw [State.alterBuffer_self, State.alterBuffer_self]

theorem closeBuffer_other (s : State) {b c : Fin 4} (h : c ≠ b) :
    (s.closeBuffer b).buffer c = (judged s b).buffer c := by
  rw [closeBuffer_eq]
  show ((State.alterBuffer _ b _).alterBuffer b _).buffer c = _
  rw [State.alterBuffer_other _ _ _ _ h, State.alterBuffer_other _ _ _ _ h]

theorem judged_alarmed (s : State) (b c : Fin 4) :
    BufferAlarmed ((s.groupBuffer b).buffer c) ((judged s b).buffer c) := raiseAll_alarmed _ _ c

theorem closeBuffer_state (s : State) (b c : Fin 4) :
    ((s.closeBuffer b).buffer c).state = if c = b then .held else (s.buffer c).state := by
  by_cases h : c = b
  · subst h
    rw [closeBuffer_self, if_pos rfl]
  · rw [closeBuffer_other s h, if_neg h, (judged_alarmed s b c).state]
    unfold State.groupBuffer
    rw [State.alterBuffer_other _ _ _ _ h]

/-- What the close computations leave alone. -/
theorem closeBuffer_frame (s : State) (b : Fin 4) : AlarmsOnly s { s.closeBuffer b with rpw := s.rpw } ∧
    (s.closeBuffer b).rpw = { s.rpw with held := (s.closeBuffer b).rpw.held } := by
  obtain ⟨_, _, _, _, _, e, more⟩ := alarmsOnly_judged s b
  rw [closeBuffer_eq, e]
  exact ⟨⟨_, _, _, _, _, rfl, more⟩, rfl⟩

/-- The record of a closing train stands (R44). -/
theorem closeBuffer_record (s : State) (b c : Fin 4) : ((s.closeBuffer b).buffer c).record = (s.buffer c).record := by
  have grouped : ((s.groupBuffer b).buffer c).record = (s.buffer c).record := by
    unfold State.groupBuffer
    by_cases h : c = b
    · subst h
      rw [State.alterBuffer_self]
    · rw [State.alterBuffer_other _ _ _ _ h]
  rw [← grouped, ← (judged_alarmed s b c).record]
  by_cases h : c = b
  · subst h
    rw [closeBuffer_self]
    exact copied_record _ (judged s c).ab
  · rw [closeBuffer_other s h]

/-- The close of one train leaves every other buffer alone, when no other OPEN or CLOSING train has its number. -/
theorem closeBuffer_others {s : State} {b : Fin 4} (hs : (s.buffer b).state = .opened ∨ (s.buffer b).state = .closing)
    (only : ∀ a : Fin 4, a ≠ b → (s.buffer a).record.number = (s.buffer b).record.number →
      (s.buffer a).state ≠ .opened ∧ (s.buffer a).state ≠ .closing) {c : Fin 4} (h : c ≠ b) :
    (s.closeBuffer b).buffer c = s.buffer c := by
  have self : (s.groupBuffer b).buffer b = { s.buffer b with axles := ((s.groupBuffer b).buffer b).axles } := by
    unfold State.groupBuffer
    rw [State.alterBuffer_self]
  have other (a : Fin 4) (k : a ≠ b) : (s.groupBuffer b).buffer a = s.buffer a := State.alterBuffer_other _ _ _ _ k
  have found : (s.groupBuffer b).bufferOf (s.buffer b).record.number = some b :=
    bufferOf_eq (by rw [self]) (by rw [self]; exact hs) (fun a k => by rw [other a k]; exact only a k)
  rw [closeBuffer_other s h, ← other c h]
  refine raiseAll_other (fun a m => ?_) h
  rw [diffAlarms_train m, self]
  exact found

end Sys2Proof.Machine.TrainProofs
end

section
/-!
PROOFS. The close of the open train and the evaluation of the close conditions, as State.ClosesAs and
State.TrainBecomes state them (R40 to R45).
-/

namespace Sys2Proof.Machine.TrainProofs

open Sys2Proof

/-- An instant that is the present cycle leaves the clock. -/
theorem advance_now (s : State) : s.advance s.tbu.cycle = s := by
  have zero : elapsed s.tbu.cycle s.tbu.cycle = 0 := by simp [elapsed]
  unfold State.advance
  simp [zero]

/-! ### The close, by the place of the train (R43 to R45) -/

/-- The machine with the open train gone: the tracker is IDLE, TRAIN is pending, and the stuck timers of the detectors
`ds` start (R7, R43). -/
def idled (s : State) (ds : Det → Detector) : State :=
  { s.withDetectors (fun d => (ds d).supervised s.tbu.cycle) with
    tt := { s.tt with tracker := .idle }, atu := { s.atu with pending := s.atu.pending ||| 0x20#8 } }

/-- A buffered train at its close, before its close computations (R43). -/
def closingIn (s : State) (ds : Det → Detector) (b : Fin 4) (r : TrainRecord) (axles : List AxleEntry)
    (status : CloseStatus) : State :=
  (idled s ds).withBuffer b
    { s.buffer b with state := .closing, record := r.closedAs status s.tbu.siteTime, axles := axles }

theorem closesAs_some_iff (s t : State) (ds : Det → Detector) (b : Fin 4) (r : TrainRecord) (axles : List AxleEntry)
    (status : CloseStatus) : s.ClosesAs t ds (some b) r axles status ↔
      (s.se.holds r.number = true → t = closingIn s ds b r axles status) ∧
      (s.se.holds r.number = false →
        exec (.closeComputations s.tbu.cycle b) (closingIn s ds b r axles status) = .next t) := Iff.rfl

theorem trainGone_eq (s : State) : s.trainGone = idled s s.detector := by
  unfold State.trainGone
  rw [enterTracker_idle]
  rfl

/-- The close computations of a CLOSING buffer, as a command at the present cycle. -/
theorem exec_closeComputations {v : State} (hr : v.Running) (b : Fin 4) :
    exec (.closeComputations v.tbu.cycle b) v = .next (if v.closeDue b then v.closeBuffer b else v) := by
  show event v.tbu.cycle v _ = _
  rw [event_running hr, advance_now]

section
variable {s : State} {r : TrainRecord} {axles : List AxleEntry}

theorem closingIn_buffer (ds : Det → Detector) (b : Fin 4) (r : TrainRecord) (axles : List AxleEntry)
    (status : CloseStatus) : (closingIn s ds b r axles status).buffer b =
      { s.buffer b with state := .closing, record := r.closedAs status s.tbu.siteTime, axles := axles } :=
  withBuffer_self _ b _

theorem closingIn_closeDue (ds : Det → Detector) (b : Fin 4) (r : TrainRecord) (axles : List AxleEntry)
    (status : CloseStatus) : (closingIn s ds b r axles status).closeDue b = !s.se.holds r.number := by
  unfold State.closeDue
  rw [closingIn_buffer]
  rfl

/-- The close of a train in a buffer: its buffer is CLOSING, and its close computations are done at once when the SE
holds no request of it (R43, R44). -/
theorem closeTrain_of_buffer {b : Fin 4} (h : s.bufferIn .opened = some b) (status : CloseStatus) :
    s.closeTrain status =
      let v := closingIn s s.detector b (s.buffer b).record (s.buffer b).axles status
      if s.se.holds (s.buffer b).record.number then v else v.closeBuffer b := by
  have closed : s.alterOpen (fun r => r.close status s.tbu.siteTime) =
      s.withBuffer b { s.buffer b with record := (s.buffer b).record.closedAs status s.tbu.siteTime } := by
    unfold State.alterOpen
    simp only [h]
    exact alterBuffer_eq_withBuffer s b _
  have opened : (s.alterOpen (fun r => r.close status s.tbu.siteTime)).bufferIn .opened = some b := by
    rw [closed, ← h]
    refine State.bufferIn_congr (fun a => ?_) _
    by_cases e : a = b
    · rw [e, withBuffer_self]
    · rw [withBuffer_other s e]
  have closing : ((s.withBuffer b
      { s.buffer b with record := (s.buffer b).record.closedAs status s.tbu.siteTime }).alterBuffer b
      (fun x => { x with state := .closing })).trainGone =
      closingIn s s.detector b (s.buffer b).record (s.buffer b).axles status := by
    rw [alterBuffer_eq_withBuffer, trainGone_eq, withBuffer_withBuffer, withBuffer_self]
    rfl
  unfold State.closeTrain
  simp only [opened]
  rw [closed, closing, closingIn_closeDue]
  cases s.se.holds (s.buffer b).record.number <;> rfl

theorem closeTrain_buffered {b : Fin 4} (h : s.OpenTrain (some b) r axles) (hr : s.Running) (status : CloseStatus) :
    s.ClosesAs (s.closeTrain status) s.detector (some b) r axles status := by
  have opened := bufferIn_opened h
  obtain ⟨_, _, _, rfl, rfl⟩ := h
  rw [closesAs_some_iff, closeTrain_of_buffer opened]
  refine ⟨fun k => by simp [k], fun k => ?_⟩
  rw [show s.tbu.cycle =
    (closingIn s s.detector b (s.buffer b).record (s.buffer b).axles status).tbu.cycle from rfl]
  rw [exec_closeComputations (by exact hr), closingIn_closeDue]
  simp [k]

/-- The close of a count-only train: its stub joins the held queue, or is lost beside 8 stubs (R45, R143). -/
theorem closeTrain_of_countOnly {c : CountOnly} (h : s.bufferIn .opened = none) (hc : s.tt.countOnly = some c)
    (status : CloseStatus) : s.ClosesAs (s.closeTrain status) s.detector none c.record axles status := by
  have closed : s.alterOpen (fun r => r.close status s.tbu.siteTime) =
      s.withOpenTrain none (c.record.closedAs status s.tbu.siteTime) [] := by
    unfold State.alterOpen
    simp only [h, hc]
    unfold State.withOpenTrain
    simp only [hc]
    rfl
  have opened : (s.withOpenTrain none (c.record.closedAs status s.tbu.siteTime) []).bufferIn .opened = none := h
  have count : (s.withOpenTrain none (c.record.closedAs status s.tbu.siteTime) []).tt.countOnly =
      some { c with record := c.record.closedAs status s.tbu.siteTime } := by
    simp [State.withOpenTrain, hc]
  unfold State.closeTrain
  simp only [closed, opened, count]
  rw [trainGone_eq]
  unfold State.joinStub State.alterReports
  simp only []
  generalize hj : State.showJournal _ = j
  have rpw : j.rpw = { s.rpw with
      held := if s.rpw.stubs < 8 then placedByNumber
        ({ c with record := c.record.closedAs status s.tbu.siteTime } : CountOnly).report s.rpw.held else s.rpw.held
      lost := if s.rpw.stubs < 8 then s.rpw.lost else min 65535 (s.rpw.lost + 1) } := by
    rw [← hj]
    show (if s.rpw.stubs < 8 then _ else _) = _
    split <;> simp [joinHeld_eq_placedByNumber, State.withOpenTrain]
  have journal := showJournal_spec { s with rpw := j.rpw }
  have mem : j.mem = State.mem (State.showJournal { s with rpw := j.rpw }) := by
    rw [← hj]
    rfl
  rw [← mem] at journal
  obtain ⟨last, shows_, outside, release⟩ := journal
  have ofTrain := headerOf_ofTrain (c.record.closedAs status s.tbu.siteTime) [] [] 0 false c.vehicles false
    (by simp [TrainRecord.closedAs]) (by simp [TrainRecord.closedAs])
  refine ⟨?_, outside, release, ?_, shows_, fun k => ?_, fun k => ?_⟩
  · show idled j j.detector = _
    have e : idled j j.detector = { idled s s.detector with
        tt := { (idled s s.detector).tt with countOnly := none }, mem := j.mem, rpw := j.rpw } := by
      rw [← hj]
      rfl
    rw [e]
    show State.mk .. = State.mk ..
    congr 1
    show j.rpw = { s.rpw with held := j.rpw.held, lost := j.rpw.lost }
    rw [rpw]
  · show j.mem.readWord 0 = _
    rw [last]
    show j.rpw.lastWritten = _
    rw [rpw]
  · show j.rpw.held = _ ∧ j.rpw.lost = _
    rw [rpw]
    simp [Nat.not_lt.2 k]
  · show j.rpw.lost = _ ∧ ∃ h ∈ j.rpw.held, j.rpw.held = _ ∧ _
    rw [rpw]
    simp only [k, if_true, true_and]
    refine ⟨_, mem_placedByNumber _ _, rfl, rfl, rfl, rfl, ofTrain, rfl, rfl, rfl, ?_, ?_⟩ <;>
      simp [hc, CountOnly.report, headerOf]

theorem closeTrain_counted (h : s.OpenTrain none r axles) (status : CloseStatus) :
    s.ClosesAs (s.closeTrain status) s.detector none r axles status := by
  have none_open := bufferIn_opened h
  obtain ⟨_, _, counted, _⟩ := h
  obtain ⟨c, hc, rfl⟩ := Option.map_eq_some_iff.1 counted
  exact closeTrain_of_countOnly none_open hc status

/-- The close of the open train (R43 to R45). -/
theorem closeTrain_closesAs {place : Option (Fin 4)} (h : s.OpenTrain place r axles) (hr : s.Running)
    (status : CloseStatus) : s.ClosesAs (s.closeTrain status) s.detector place r axles status := by
  cases place with
  | none => exact closeTrain_counted h status
  | some b => exact closeTrain_buffered h hr status

/-- The close opens no other train. -/
theorem closeTrain_trainOpen {place : Option (Fin 4)} (h : s.OpenTrain place r axles) (hr : s.Running)
    (status : CloseStatus) : (s.closeTrain status).trainOpen = false := by
  have gone := closeTrain_closesAs h hr status
  have none_open {t : State} (hb : ∀ a : Fin 4, (t.buffer a).state ≠ .opened) (hc : t.tt.countOnly = none) :
      t.trainOpen = false := by
    have e : t.bufferIn .opened = none := by
      cases k : t.bufferIn .opened with
      | none => rfl
      | some a => exact absurd (State.bufferIn_some k) (hb a)
    simp [State.trainOpen, e, hc]
  cases place with
  | none =>
    rw [gone.1]
    exact none_open h.2.1 rfl
  | some b =>
    obtain ⟨_, only, hc, _⟩ := h
    have state (a : Fin 4) : ((closingIn s s.detector b r axles status).buffer a).state =
        if a = b then .closing else (s.buffer a).state := by
      unfold closingIn
      by_cases k : a = b
      · subst k
        simp [withBuffer_self]
      · rw [withBuffer_other _ k, if_neg k]
        rfl
    have shut (a : Fin 4) : ((closingIn s s.detector b r axles status).buffer a).state ≠ .opened := by
      rw [state a]
      split
      · simp
      · exact fun k => absurd ((only a).1 k) (by assumption)
    rw [closesAs_some_iff] at gone
    cases k : s.se.holds r.number with
    | true =>
      rw [gone.1 k]
      exact none_open shut hc
    | false =>
      have done := gone.2 k
      rw [show s.tbu.cycle = (closingIn s s.detector b r axles status).tbu.cycle from rfl,
        exec_closeComputations (by exact hr)] at done
      rw [← Host.Outcome.next.inj done]
      split
      · refine none_open (fun a => ?_) ?_
        · rw [closeBuffer_state]
          split
          · simp
          · exact shut a
        · obtain ⟨⟨_, _, _, _, _, e, _⟩, _⟩ := closeBuffer_frame (closingIn s s.detector b r axles status) b
          exact (congrArg (fun t : State => t.tt.countOnly) e).trans hc
      · exact none_open shut hc

/-! ### The close conditions (R40) -/

theorem closeCondition_cases (r : TrainRecord) (clear : Bool) (free : Prop) (hf : clear = true ↔ free) :
    (∃ status ∈ [CloseStatus.cleared, .withdrawn], closeCondition r clear = some status ∧ r.CloseHolds free status ∧
      ∀ other ∈ [CloseStatus.cleared, .withdrawn], r.CloseHolds free other → other = status) ∨
    (closeCondition r clear = none ∧ ∀ status ∈ [CloseStatus.cleared, .withdrawn], ¬r.CloseHolds free status) := by
  unfold closeCondition
  split
  · next k =>
    refine .inl ⟨.cleared, by simp, rfl, ⟨k.1, k.2.1, hf.1 k.2.2⟩, fun other _ held => ?_⟩
    cases other <;> simp only [TrainRecord.CloseHolds] at held
    · rfl
    · omega
  · next k =>
    have uncleared : ¬r.CloseHolds free .cleared := fun held => k ⟨held.1, held.2.1, hf.2 held.2.2⟩
    split
    · next l =>
      refine .inl ⟨.withdrawn, by simp, rfl, l, fun other _ held => ?_⟩
      cases other with
      | withdrawn => rfl
      | cleared => exact absurd held uncleared
      | _ => exact held.elim
    · next l =>
      refine .inr ⟨rfl, fun status m held => ?_⟩
      simp only [List.mem_cons, List.not_mem_nil, or_false] at m
      obtain rfl | rfl := m
      · exact uncleared held
      · exact l held

theorem evaluateClose_eq {place : Option (Fin 4)} (h : s.OpenTrain place r axles) :
    s.evaluateClose = match closeCondition r s.gatesClear with
      | some status => s.closeTrain status
      | none => s := by
  cases e : closeCondition r s.gatesClear <;> simp [State.evaluateClose, openRecord_eq h, e]

/-- The close conditions are evaluated (R40). -/
theorem evaluateClose_becomes {place : Option (Fin 4)} (h : s.OpenTrain place r axles) (hr : s.Running) :
    s.TrainBecomes s.evaluateClose s.detector place r axles := by
  rw [evaluateClose_eq h]
  obtain ⟨status, _, e, held, only⟩ | ⟨e, none_⟩ := closeCondition_cases r s.gatesClear _ (gatesClear_iff s)
  · rw [e]
    refine ⟨fun other m k => ?_, fun k => absurd held (k status (by assumption))⟩
    rw [only other m k]
    exact closeTrain_closesAs h hr status
  · rw [e]
    refine ⟨fun other m k => absurd k (none_ other m), fun _ => ?_⟩
    rw [withDetectors_self, withOpenTrain_self h]

/-- After a gate's crossing has been taken and the close conditions evaluated, the change of the gate's occupancy moves
the quiet timer and evaluates them again: in sum they are evaluated once, with the timer moved (R40, R41). -/
theorem evaluateClose_afterOccupancy {place : Option (Fin 4)} (h : s.OpenTrain place r axles) (hr : s.Running)
    {d : Det} (gate : isGate d = true) (free : (s.detector d).tracked = false) :
    s.evaluateClose.afterOccupancy d true = s.syncQuiet.evaluateClose := by
  have ha : place = none → axles = [] := fun e => countOnly_axles (e ▸ h)
  have sync : s.syncQuiet =
      s.withOpenTrain place { r with quiet := r.quiet.sync s.gatesClear s.tbu.cycle } axles := alterOpen_eq h _
  have synced := withOpenTrain_openTrain h { r with quiet := r.quiet.sync s.gatesClear s.tbu.cycle } axles ha
  have gates : s.syncQuiet.gatesClear = s.gatesClear := by rw [sync]; cases place <;> rfl
  rw [← sync] at synced
  rw [evaluateClose_eq synced, gates, evaluateClose_eq h]
  show (match closeCondition r s.gatesClear with
    | some status => s.closeTrain status
    | none => s).afterOccupancy d true = match closeCondition r s.gatesClear with
    | some status => s.syncQuiet.closeTrain status
    | none => s.syncQuiet
  cases e : closeCondition r s.gatesClear with
  | some status =>
    simp only []
    rw [State.afterOccupancy_of_none (closeTrain_trainOpen h hr status), closeTrain_syncQuiet h]
  | none =>
    simp only []
    unfold State.afterOccupancy State.occupancyChanged
    rw [if_pos ⟨gate, by rw [free]; simp⟩, evaluateClose_eq synced, gates]
    show (match closeCondition r s.gatesClear with
      | some status => s.syncQuiet.closeTrain status
      | none => s.syncQuiet) = _
    rw [e]

/-- The statement about a train that becomes `r` speaks of the machine in which it has become `r`. -/
theorem trainBecomes_of_moved {place : Option (Fin 4)} (h : s.OpenTrain place r axles) {ds : Det → Detector}
    {t : State} {r' : TrainRecord} {axles' : List AxleEntry}
    (k : ((s.withDetectors ds).withOpenTrain place r' axles').TrainBecomes t ds place r' axles') :
    s.TrainBecomes t ds place r' axles' := by
  obtain ⟨closes, stays⟩ := k
  refine ⟨fun status m held => ?_, fun none_ => ?_⟩
  · have close := closes status m held
    cases place with
    | none =>
      obtain ⟨c, hc, _⟩ := Option.map_eq_some_iff.1 h.2.2.1
      have vehicles : ((s.withDetectors ds).withOpenTrain none r' axles').tt.countOnly.bind (·.vehicles) =
          s.tt.countOnly.bind (·.vehicles) := by
        simp [State.withOpenTrain, State.withDetectors, hc]
      unfold State.ClosesAs at close ⊢
      simp only [vehicles] at close
      exact close
    | some b =>
      have same : closingIn ((s.withDetectors ds).withOpenTrain (some b) r' axles') ds b r' axles' status =
          closingIn s ds b r' axles' status := by
        unfold closingIn State.withOpenTrain
        simp only [withBuffer_self]
        exact withBuffer_withBuffer (idled (s.withDetectors ds) ds) b _ _
      rw [closesAs_some_iff] at close ⊢
      rw [← same]
      exact close
  · have same : ((s.withDetectors ds).withOpenTrain place r' axles').withDetectors ds =
        (s.withDetectors ds).withOpenTrain place r' axles' := by cases place <;> rfl
    rw [stays none_, same, withOpenTrain_withOpenTrain]

end
end Sys2Proof.Machine.TrainProofs
end

section
/-!
PROOFS. A crossing taken from its edge to the close conditions, and the crossings of an open train (O8, O9, O10).
-/

namespace Sys2Proof.Machine.TrainProofs

open Sys2Proof

/-! ### From the edge to the crossing (R3 to R5) -/

theorem isGate_iff (d : Det) : isGate d = true ↔ ¬(d = .apW ∨ d = .apE) := by cases d <;> simp [isGate]

/-- The last edge of a crossing returns the decoder to CLEAR and emits the crossing at its candidate (R4, R5). -/
theorem aboutToCross_emits {d : Detector} {dir : Dir} {c : Cycle} (h : d.AboutToCross dir c) :
    d.emits (lastElement dir) false = some (dir, c) := by
  obtain ⟨_, hc, h⟩ := h
  cases dir <;> obtain ⟨hd, he⟩ := h <;>
    simp [Detector.emits, lastElement, hd, he, hc, DecoderState.after, sideOf]

theorem aboutToCross_tracked {d : Detector} {dir : Dir} {c : Cycle} (h : d.AboutToCross dir c) : d.tracked = true := by
  obtain ⟨hs, _, h⟩ := h
  rw [tracked_iff]
  cases dir <;> simp [h.1, hs]

theorem aboutToCross_covers {d : Detector} {dir : Dir} {c : Cycle} (h : d.AboutToCross dir c) :
    d.decoder.covers (lastElement dir) = true := by
  obtain ⟨_, _, h⟩ := h
  cases dir <;> simp [h.1, lastElement, DecoderState.covers]

/-- A detector whose decoder an edge returns to CLEAR (R4, R5, R7). -/
theorem decode_to_clear {d : Detector} {e : Element} {time now : Cycle} {opened : Bool} (h : d.decoder ≠ .clear)
    (k : d.decoder.after e false = .clear) : (d.decode e false time).timeStuck d.decoder opened now = d.left := by
  unfold Detector.decode Detector.timeStuck Detector.left
  rw [k]
  cases e' : d.decoder <;> simp_all

theorem aboutToCross_left {d : Detector} {dir : Dir} {c time now : Cycle} {opened : Bool} (h : d.AboutToCross dir c) :
    (d.decode (lastElement dir) false time).timeStuck d.decoder opened now = d.left := by
  obtain ⟨_, _, h⟩ := h
  refine decode_to_clear ?_ ?_ <;> cases dir <;> simp [h.1, lastElement, DecoderState.after]

theorem left_untracked (d : Detector) : d.left.tracked = false := rfl

/-- The machine whose detector has become `x`. -/
theorem alterDetector_eq (s : State) (d : Det) (f : Detector → Detector) :
    s.alterDetector d f = s.withDetectors (s.detectorsWith d (f (s.detector d))) := by
  have e := wdi_eq_of_detector (s := s.alterDetector d f) (ds := s.detectorsWith d (f (s.detector d))) (fun a => by
    unfold State.detectorsWith
    by_cases h : a = d
    · subst h
      rw [State.alterDetector_self, if_pos rfl]
    · rw [State.alterDetector_other _ _ _ _ h, if_neg h])
  unfold State.withDetectors
  rw [← e]
  rfl

/-- An accepted edge is taken at its command's instant (R3). -/
theorem exec_edge {now since : Cycle} {det : Det} {e : Element} {covered : Bool} {s : State} (hr : s.Running)
    (hc : ((s.advance now).detector det).decoder.covers e ≠ covered) (hs : (s.advance now).StoodFor since 2000) :
    exec (.elementEdge now det e covered since) s = .next ((s.advance now).takeEdge det e covered since) := by
  show event now s _ = _
  rw [event_running hr, if_pos ⟨hc, (State.levelHeld_iff ..).2 hs⟩]

/-- The last edge of a crossing in WATCH hands the crossing to the TT with the detector already clear (R5,
notes/assumptions/25). -/
theorem exec_crossing {now since c : Cycle} {det : Det} {dir : Dir} {s : State} (hr : s.Running)
    (hw : (s.advance now).site.mode = .watch) (hd : ((s.advance now).detector det).AboutToCross dir c)
    (hs : (s.advance now).StoodFor since 2000) :
    let u := s.advance now
    exec (.elementEdge now det (lastElement dir) false since) s = .next
      (((u.withDetectors (u.detectorsWith det (u.detector det).left)).takeCrossing ⟨det, dir, c⟩).afterOccupancy
        det true) := by
  intro u
  rw [exec_edge hr (by rw [aboutToCross_covers hd]; simp) hs]
  unfold State.takeEdge State.moveDecoder State.crossingAt
  rw [alterDetector_eq]
  simp only [hd.1, hw, and_self, if_true, aboutToCross_emits hd, Option.map_some, aboutToCross_tracked hd,
    aboutToCross_left hd]
  rfl

/-! ### The timers of a crossed train (R40 to R42) -/

/-- A restarted quiet timer, once it follows the gates' occupancy, runs at its full duration or is suspended with it
(R41). -/
theorem restart_sync (q : QuietTimer) (full : Nat) (clear : Bool) (now : Cycle) :
    (q.restart full clear now).sync clear now =
      if q = .stopped then .stopped else if clear then .running now full else .suspended full := by
  have zero : elapsed now now = 0 := by simp [elapsed]
  cases q <;> cases clear <;> simp [QuietTimer.restart, QuietTimer.sync, zero]

/-- A timer that follows the gates' occupancy is no other timer. -/
theorem sync_eq_stopped (q : QuietTimer) (clear : Bool) (now : Cycle) :
    q.sync clear now = .stopped ↔ q = .stopped := by
  cases q <;> cases clear <;> simp [QuietTimer.sync]

theorem forgo_eq (q : QuietTimer) (now : Cycle) : q.forgo now = match q with
    | .running since left => if (now - since).toNat = left then .forgone else q
    | _ => q := by
  cases q <;> rfl

theorem forgoOpenLimit_eq (s : State) (start : Option Cycle) :
    forgoOpenLimit (secondsToCycles s.site.settings.openLimit) start s.tbu.cycle = s.limitAfter start := by
  unfold forgoOpenLimit State.limitAfter secondsToCycles elapsed
  cases start with
  | none => rfl
  | some t => by_cases h : (s.tbu.cycle - t).toNat = 10000000 * s.site.settings.openLimit <;> simp [Option.filter, h]

/-- The timers a crossing leaves, a gate crossing's occupancy change included, are those of State.timed. -/
theorem timersAtCrossing_eq (s : State) (det : Det) (ds : Det → Detector) (r r' : TrainRecord)
    (hq : r'.quiet = r.quiet ∨ ∃ clear, r'.quiet = r.quiet.sync clear s.tbu.cycle ∧ isGate det = true)
    (hr : r' = { r with quiet := r'.quiet }) :
    (let r₁ := (s.withDetectors ds).timersAtCrossing (isGate det) r'
      if isGate det then { r₁ with quiet := r₁.quiet.sync (s.withDetectors ds).gatesClear s.tbu.cycle } else r₁) =
      s.timed det ds r := by
  have free := gatesClear_iff (s.withDetectors ds)
  rw [show (s.withDetectors ds).detector = ds from funext (withDetectors_detector s ds)] at free
  have limit := forgoOpenLimit_eq s r.openLimit
  unfold State.timersAtCrossing State.timed State.quietAfter
  rw [← limit]
  cases g : isGate det with
  | false =>
    have near : det = .apW ∨ det = .apE := by
      by_contra k
      rw [(isGate_iff det).2 k] at g
      cases g
    obtain e | ⟨_, _, e⟩ := hq
    · rw [e] at hr
      subst hr
      simp only [near, if_true, Bool.false_eq_true, if_false]
      rw [forgo_eq]
      rfl
    · rw [g] at e
      cases e
  | true =>
    have far := (isGate_iff det).1 g
    have stopped : r'.quiet = .stopped ↔ r.quiet = .stopped := by
      obtain e | ⟨_, e, _⟩ := hq
      · rw [e]
      · rw [e, sync_eq_stopped]
    simp only [far, if_true, if_false]
    have quiet := restart_sync r'.quiet s.quietFull (s.withDetectors ds).gatesClear s.tbu.cycle
    simp only [stopped, free] at quiet
    rw [hr]
    simp only []
    congr 1

/-! ### Taking a crossing of an open train -/

section
variable {v : State} {place : Option (Fin 4)} {r₀ : TrainRecord} {axles₀ axles' : List AxleEntry} {ds : Det → Detector}

theorem moved_detector (r : TrainRecord) : ((v.withDetectors ds).withOpenTrain place r axles').detector = ds := by
  funext d
  rw [← withDetectors_detector v ds d]
  cases place <;> rfl

theorem moved_running (hr : v.Running) (r : TrainRecord) :
    ((v.withDetectors ds).withOpenTrain place r axles').Running := by
  cases place <;> exact hr

/-- The open train and the detectors have been moved, and the close conditions are evaluated (R40). -/
theorem becomes_of_moved (h : v.OpenTrain place r₀ axles₀) (hr : v.Running) (ha : place = none → axles' = [])
    (r : TrainRecord) :
    v.TrainBecomes ((v.withDetectors ds).withOpenTrain place r axles').evaluateClose ds place r axles' := by
  have e := evaluateClose_becomes (withOpenTrain_openTrain (withDetectors_openTrain h ds) r axles' ha)
    (moved_running hr r)
  rw [moved_detector r] at e
  exact trainBecomes_of_moved h e

/-- The quiet timer of the moved train follows the gates' occupancy (R41). -/
theorem moved_syncQuiet (h : v.OpenTrain place r₀ axles₀) (ha : place = none → axles' = []) (r : TrainRecord) :
    ((v.withDetectors ds).withOpenTrain place r axles').syncQuiet = (v.withDetectors ds).withOpenTrain place
      { r with quiet := r.quiet.sync (v.withDetectors ds).gatesClear v.tbu.cycle } axles' := by
  have e := alterOpen_eq (withOpenTrain_openTrain (withDetectors_openTrain h ds) r axles' ha)
    (fun r => { r with quiet := r.quiet.sync (v.withDetectors ds).gatesClear v.tbu.cycle })
  rw [withOpenTrain_withOpenTrain] at e
  rw [← e]
  cases place <;> rfl

/-- The open train has been moved by a crossing: then the close conditions are evaluated, with the quiet timer after
the change of the gate's occupancy (R40, R41). -/
theorem becomes_of_crossed {r₁ : TrainRecord} (h : v.OpenTrain place r₀ axles₀) (hr : v.Running)
    (ha : place = none → axles' = []) {det : Det} (free : (ds det).tracked = false) :
    v.TrainBecomes
      (((v.withDetectors ds).withOpenTrain place r₁ axles').evaluateClose.afterOccupancy det true) ds place
      (if isGate det then { r₁ with quiet := r₁.quiet.sync (v.withDetectors ds).gatesClear v.tbu.cycle } else r₁)
      axles' := by
  cases g : isGate det with
  | true =>
    rw [evaluateClose_afterOccupancy (withOpenTrain_openTrain (withDetectors_openTrain h ds) r₁ axles' ha)
      (moved_running hr r₁) g (by rw [moved_detector]; exact free), moved_syncQuiet h ha]
    exact becomes_of_moved h hr ha _
  | false =>
    have e (t : State) : t.afterOccupancy det true = t := by
      unfold State.afterOccupancy
      rw [if_neg (by simp [g])]
    rw [e]
    exact becomes_of_moved h hr ha r₁

end

section
variable {s : State} {place : Option (Fin 4)} {r r' : TrainRecord} {axles axles' : List AxleEntry} {c : Crossing}
  {buffered : Bool}

/-- A crossing of the open train that makes no request moves it by the crossing rules (section 2.4). -/
theorem crossOpen_of_none (h : s.OpenTrain place r axles)
    (hm : crossTrain c ⟨s.timersAtCrossing (isGate c.det) r, axles, place.isSome⟩ = (⟨r', axles', buffered⟩, none)) :
    s.crossOpen c = s.withOpenTrain place r' axles' := by
  unfold State.crossOpen
  rw [tracked_eq h]
  simp only [hm, putTracked_eq h]

/-- A crossing of the open train that makes a request moves it, and then hands the request to the SE (R48). -/
theorem crossOpen_of_some {q : Request} (h : s.OpenTrain place r axles)
    (hm : crossTrain c ⟨s.timersAtCrossing (isGate c.det) r, axles, place.isSome⟩ = (⟨r', axles', buffered⟩, some q)) :
    s.crossOpen c = (s.withOpenTrain place r' axles').request q := by
  unfold State.crossOpen
  rw [tracked_eq h]
  simp only [hm, putTracked_eq h]

theorem takeCrossing_open (h : s.OpenTrain place r axles) (c : Crossing) :
    s.takeCrossing c = (s.crossOpen c).evaluateClose := by
  unfold State.takeCrossing
  rw [h.1]

theorem advance_running (hr : s.Running) (now : Cycle) : (s.advance now).Running := by
  rw [State.Running, State.advance_power]
  exact hr

end

section
variable {now since c : Cycle} {det : Det} {dir : Dir} {s : State} {place : Option (Fin 4)} {r : TrainRecord}
  {axles : List AxleEntry}

/-- A crossing of an open train that makes no request: the train becomes what the crossing rules make of it. -/
theorem crossing_becomes (hr : s.Running) (hw : (s.advance now).site.mode = .watch)
    (hd : ((s.advance now).detector det).AboutToCross dir c) (hs : (s.advance now).StoodFor since 2000)
    (h : (s.advance now).OpenTrain place r axles) {r' : TrainRecord} {axles' : List AxleEntry}
    (hq : r'.quiet = r.quiet) (hl : r'.openLimit = r.openLimit) (ha : place = none → axles' = [])
    (hx : ∀ q l, crossTrain ⟨det, dir, c⟩ ⟨{ r with quiet := q, openLimit := l }, axles, place.isSome⟩ =
      (⟨{ r' with quiet := q, openLimit := l }, axles', place.isSome⟩, none)) :
    let u := s.advance now
    let ds := u.detectorsWith det (u.detector det).left
    ∃ t : State, exec (.elementEdge now det (lastElement dir) false since) s = .next t ∧
      u.TrainBecomes t ds place (u.timed det ds r') axles' := by
  intro u ds
  refine ⟨_, exec_crossing hr hw hd hs, ?_⟩
  have opened : (u.withDetectors ds).OpenTrain place r axles := h
  have crossed : (u.withDetectors ds).crossOpen ⟨det, dir, c⟩ =
      (u.withDetectors ds).withOpenTrain place ((u.withDetectors ds).timersAtCrossing (isGate det) r') axles' := by
    rw [crossOpen_of_none opened (hx _ _)]
    unfold State.timersAtCrossing
    simp only [hq, hl]
  rw [takeCrossing_open opened, crossed, ← timersAtCrossing_eq u det ds r' r' (.inl rfl) rfl]
  exact becomes_of_crossed h (advance_running hr now) ha (by simp [ds, State.detectorsWith, left_untracked])

end
end Sys2Proof.Machine.TrainProofs
end

section
/-!
PROOFS. The crossing rules by the part of the detector, and the forward crossings of the reference gate (O8).
-/

namespace Sys2Proof.Machine.TrainProofs

open Sys2Proof

/-! ### The part a detector plays (R26) -/

theorem roleOf_entryGate (d : Dir) : roleOf d (entryGateOf d) = .entry := by cases d <;> rfl
theorem roleOf_exitGate (d : Dir) : roleOf d (exitGateOf d) = .exit := by cases d <;> rfl
theorem roleOf_g2 (d : Dir) : roleOf d .g2 = .middle := by cases d <;> rfl

/-! ### The crossing rules, by the part of the detector and the direction (R30 to R37) -/

section
variable {c : Crossing} {tr : Tracked}

theorem crossTrain_entryApproach (h : roleOf tr.record.dir c.det = .entryApproach) : crossTrain c tr =
    ({ tr with record := { tr.record with
      entryNet := if c.dir = tr.record.dir then tr.record.entryNet + 1 else tr.record.entryNet - 1 } }, none) := by
  by_cases k : c.dir = tr.record.dir <;> simp [crossTrain, h, k, beq_false_of_ne]

theorem crossTrain_exitApproach (h : roleOf tr.record.dir c.det = .exitApproach) : crossTrain c tr =
    ({ tr with record := { tr.record with
      exitNet := if c.dir = tr.record.dir then tr.record.exitNet + 1 else tr.record.exitNet - 1 } }, none) := by
  by_cases k : c.dir = tr.record.dir <;> simp [crossTrain, h, k, beq_false_of_ne]

theorem crossTrain_entry (h : roleOf tr.record.dir c.det = .entry) : crossTrain c tr =
    ({ tr with record := if c.dir = tr.record.dir then entryForward c.time tr.record else entryReverse tr.record },
      none) := by
  by_cases k : c.dir = tr.record.dir <;> simp [crossTrain, h, k, beq_false_of_ne]

theorem crossTrain_middle (h : roleOf tr.record.dir c.det = .middle) : crossTrain c tr =
    (if tr.record.substituted then tr
      else if c.dir = tr.record.dir then refForward false c.time tr else refReverse false tr, none) := by
  by_cases k : c.dir = tr.record.dir <;> simp [crossTrain, h, k, beq_false_of_ne]

theorem crossTrain_exit_forward (h : roleOf tr.record.dir c.det = .exit) (k : c.dir = tr.record.dir) :
    crossTrain c tr =
      if tr.record.substituted then (refForward true c.time tr, none) else exitForward c.time tr := by
  simp [crossTrain, h, k]

theorem crossTrain_exit_reverse (h : roleOf tr.record.dir c.det = .exit) (k : c.dir ≠ tr.record.dir) :
    crossTrain c tr = (if tr.record.substituted then refReverse true tr else exitReverse tr, none) := by
  simp [crossTrain, h, beq_false_of_ne k]

/-- The reference gate of a train is G2, or under substitution the exit gate (R33, R37). -/
theorem crossTrain_reference (h : c.det = if tr.record.substituted then exitGateOf tr.record.dir else .g2) :
    crossTrain c tr = (if c.dir = tr.record.dir then refForward tr.record.substituted c.time tr
      else refReverse tr.record.substituted tr, none) := by
  cases e : tr.record.substituted with
  | false =>
    rw [e] at h
    rw [crossTrain_middle (by rw [h]; exact roleOf_g2 _)]
    simp [e]
  | true =>
    rw [e] at h
    have role : roleOf tr.record.dir c.det = .exit := by rw [h]; exact roleOf_exitGate _
    by_cases k : c.dir = tr.record.dir
    · rw [crossTrain_exit_forward role k]
      simp [e, k]
    · rw [crossTrain_exit_reverse role k]
      simp [e, k]

end

/-- Settles O8: the three cases of the rule of a forward reference crossing, each as the train becomes. -/
theorem referenceCrossingAdvancesTheFront : Obligations.ReferenceCrossingAdvancesTheFront := by
  intro now since c place r axles s u det ds x state run gives hr hw hd hs h
  have none_axles (e : place = none) : axles = [] := countOnly_axles (e ▸ h)
  have moved {r' : TrainRecord} {axles' : List AxleEntry} (hq : r'.quiet = r.quiet) (hl : r'.openLimit = r.openLimit)
      (ha : place = none → axles' = [])
      (hx : ∀ q l, refForward r.substituted c ⟨{ r with quiet := q, openLimit := l }, axles, place.isSome⟩ =
        ⟨{ r' with quiet := q, openLimit := l }, axles', place.isSome⟩) : gives r' axles' :=
    crossing_becomes hr hw hd hs h hq hl ha fun q l => by
      rw [crossTrain_reference rfl, if_pos rfl]
      exact congrArg (·, none) (hx q l)
  have step : (if r.substituted then 1 else 0 : Nat) + r.x = x := by
    simp only [x]
    split <;> omega
  refine ⟨fun front => ?_, fun atEnd room => ?_, fun atEnd full => ?_⟩
  · refine moved rfl rfl (fun e => by simp [none_axles e]) fun q l => ?_
    unfold refForward
    simp only [front, if_true]
    rw [Nat.add_comm r.x, step]
    rfl
  · refine moved rfl rfl (fun e => by simp [e]) fun q l => ?_
    unfold refForward tableSize
    simp only [Nat.not_lt.2 atEnd, room, if_true, if_false]
    rw [Nat.add_comm r.x, step]
    cases place <;> simp [AxleEntry.created, startRun, state, run]
    exact none_axles rfl
  · refine moved rfl rfl none_axles fun q l => ?_
    unfold refForward tableSize
    simp only [Nat.not_lt.2 atEnd, Nat.not_lt.2 full, if_false]

end Sys2Proof.Machine.TrainProofs
end

section
/-!
PROOFS. The crossings that move the counts of an open train, and the reverse crossings (O9).
-/

namespace Sys2Proof.Machine.TrainProofs

open Sys2Proof

theorem roleOf_entryApproach (d : Dir) :
    roleOf d (match d with | .east => .apW | .west => .apE) = .entryApproach := by cases d <;> rfl

theorem roleOf_exitApproach (d : Dir) :
    roleOf d (match d with | .east => .apE | .west => .apW) = .exitApproach := by cases d <;> rfl

/-! ### A reverse crossing of the reference gate, case by case (R34, R37) -/

section
variable {tr : Tracked} {sub : Bool}

theorem refReverse_overflow (h : 0 < tr.record.overflow) :
    refReverse sub tr = { tr with record := stageAtHead tr.record.backOverflow } := by
  simp [refReverse, h]

theorem refReverse_front (h : tr.record.overflow = 0) (k : 0 < tr.record.f) :
    refReverse sub tr = { tr with
      record := stageAtHead (tr.record.backFront sub)
      axles := tr.axles.modify (tr.record.f - 1) (fun e => { e with state := .backed }) } := by
  simp [refReverse, h, k]

theorem refReverse_underrun (h : tr.record.overflow = 0) (k : tr.record.f = 0) :
    refReverse sub tr = { tr with record := { tr.record with underrun := true } } := by
  simp [refReverse, h, k]

end

theorem stageAtHead_quiet (r : TrainRecord) : (stageAtHead r).quiet = r.quiet := by
  unfold stageAtHead
  split <;> rfl

theorem stageAtHead_openLimit (r : TrainRecord) : (stageAtHead r).openLimit = r.openLimit := by
  unfold stageAtHead
  split <;> rfl

/-- Staging does not see the timers of a record. -/
theorem stageAtHead_timers (r : TrainRecord) (q : QuietTimer) (l : Option Cycle) :
    stageAtHead { r with quiet := q, openLimit := l } = { stageAtHead r with quiet := q, openLimit := l } := by
  unfold stageAtHead
  split <;> rfl

/-- Settles O9: each clause is one case of the crossing rules, as the train becomes. -/
theorem crossingsMoveTheCountsOfATrain : Obligations.CrossingsMoveTheCountsOfATrain := by
  intro now since c place r axles det dir s u ds forward staged backed entryApproach exitApproach becomes
    hr hw hd hs h
  have moved {r' : TrainRecord} {axles' : List AxleEntry} (hq : r'.quiet = r.quiet) (hl : r'.openLimit = r.openLimit)
      (ha : place = none → axles' = [])
      (hx : ∀ q l, crossTrain ⟨det, dir, c⟩ ⟨{ r with quiet := q, openLimit := l }, axles, place.isSome⟩ =
        (⟨{ r' with quiet := q, openLimit := l }, axles', place.isSome⟩, none)) : becomes r' axles' :=
    crossing_becomes hr hw hd hs h hq hl ha hx
  have kept (e : place = none) : axles = [] := countOnly_axles (e ▸ h)
  have none_backed (i : Nat) (f : AxleEntry → AxleEntry) (e : place = none) : axles.modify i f = [] := by
    simp [kept e]
  have staged_eq {r' : TrainRecord} (e : r'.staging = r.staging) : staged r' = stageAtHead r' := by
    simp only [staged, stageAtHead, stagingSize, e]
  refine ⟨?_, ?_, ?_, ?_, ?_, ?_, ?_, ?_, ?_, ?_, ?_⟩
  · rintro rfl k
    refine moved rfl rfl kept fun q l => ?_
    rw [crossTrain_entryApproach (roleOf_entryApproach _), if_pos k]
  · rintro rfl k
    refine moved rfl rfl kept fun q l => ?_
    rw [crossTrain_entryApproach (roleOf_entryApproach _), if_neg k]
  · rintro rfl k
    refine moved rfl rfl kept fun q l => ?_
    rw [crossTrain_exitApproach (roleOf_exitApproach _), if_pos k]
  · rintro rfl k
    refine moved rfl rfl kept fun q l => ?_
    rw [crossTrain_exitApproach (roleOf_exitApproach _), if_neg k]
  · rintro rfl k room
    refine moved rfl rfl kept fun q l => ?_
    rw [crossTrain_entry (roleOf_entryGate _), if_pos k]
    simp [entryForward, stagingSize, room]
  · rintro rfl k full
    refine moved rfl rfl kept fun q l => ?_
    rw [crossTrain_entry (roleOf_entryGate _), if_pos k]
    simp [entryForward, stagingSize, Nat.not_lt.2 full]
  · rintro rfl k empty
    refine moved rfl rfl kept fun q l => ?_
    rw [crossTrain_entry (roleOf_entryGate _), if_neg k]
    simp [entryReverse, empty]
  · rintro rfl k staging
    refine moved rfl rfl kept fun q l => ?_
    rw [crossTrain_entry (roleOf_entryGate _), if_neg k]
    simp [entryReverse, staging]
  · rintro rfl sub
    refine moved rfl rfl kept fun q l => ?_
    rw [crossTrain_middle (roleOf_g2 _), if_pos sub]
  · rintro k back
    have reverse (q : QuietTimer) (l : Option Cycle) :
        crossTrain ⟨det, dir, c⟩ ⟨{ r with quiet := q, openLimit := l }, axles, place.isSome⟩ =
          (refReverse r.substituted ⟨{ r with quiet := q, openLimit := l }, axles, place.isSome⟩, none) := by
      rw [crossTrain_reference k, if_neg back]
    refine ⟨fun some_over => ?_, fun none_over front sub => ?_, fun none_over front sub => ?_,
      fun none_over no_front => ?_⟩
    · have less : decide (r.overflow - 1 < r.overflowExit) = decide (r.overflow ≤ r.overflowExit) :=
        decide_eq_decide.2 (by omega)
      rw [staged_eq (by rfl)]
      refine moved (stageAtHead_quiet _) (stageAtHead_openLimit _) kept fun q l => ?_
      rw [reverse, refReverse_overflow some_over, ← stageAtHead_timers]
      simp only [TrainRecord.backOverflow, less]
    · rw [staged_eq (by rfl)]
      refine moved (stageAtHead_quiet _) (stageAtHead_openLimit _) (none_backed _ _) fun q l => ?_
      rw [reverse, refReverse_front none_over front, ← stageAtHead_timers]
      simp [TrainRecord.backFront, sub, backed]
    · have less : r.f - 1 < r.x ↔ r.f ≤ r.x := by omega
      rw [staged_eq (by rfl)]
      refine moved (stageAtHead_quiet _) (stageAtHead_openLimit _) (none_backed _ _) fun q l => ?_
      rw [reverse, refReverse_front none_over front, ← stageAtHead_timers]
      simp [TrainRecord.backFront, sub, less, backed]
    · refine moved rfl rfl kept fun q l => ?_
      rw [reverse, refReverse_underrun none_over no_front]
  · rintro rfl back sub
    have reverse (q : QuietTimer) (l : Option Cycle) :
        crossTrain ⟨exitGateOf r.dir, dir, c⟩ ⟨{ r with quiet := q, openLimit := l }, axles, place.isSome⟩ =
          (exitReverse ⟨{ r with quiet := q, openLimit := l }, axles, place.isSome⟩, none) := by
      rw [crossTrain_exit_reverse (roleOf_exitGate _) back]
      simp [sub]
    refine ⟨fun some_over => ?_, fun none_over passed => ?_, fun none_over none_passed => ?_⟩
    · refine moved rfl rfl kept fun q l => ?_
      rw [reverse]
      simp [exitReverse, some_over]
    · refine moved rfl rfl (none_backed _ _) fun q l => ?_
      rw [reverse]
      simp [exitReverse, none_over, passed]
    · refine moved rfl rfl kept fun q l => ?_
      rw [reverse]
      simp [exitReverse, none_over, none_passed]

end Sys2Proof.Machine.TrainProofs
end

section
/-!
PROOFS. The exit crossing that hands a request to the SE (O10).
-/

namespace Sys2Proof.Machine.TrainProofs

open Sys2Proof

/-- What changes an entry of a list is seen at that entry alone. -/
theorem modify_congr {α : Type} {l : List α} {i : Nat} {f g : α → α} (h : ∀ e, l[i]? = some e → f e = g e) :
    l.modify i f = l.modify i g := by
  apply List.ext_getElem?
  intro j
  rw [List.getElem?_modify, List.getElem?_modify]
  by_cases k : i = j
  · subst k
    cases e : l[i]? with
    | none => rfl
    | some a => simp [h a e]
  · simp [k]

/-! ### The request at the SE (R48, R49) -/

section
variable {v : State} {b : Fin 4} {r₁ : TrainRecord} {axles' : List AxleEntry}

theorem withOpenTrain_buffer_self :
    (v.withOpenTrain (some b) r₁ axles').buffer b = { v.buffer b with record := r₁, axles := axles' } :=
  withBuffer_self v b _

theorem withOpenTrain_buffer_other {a : Fin 4} (h : a ≠ b) :
    (v.withOpenTrain (some b) r₁ axles').buffer a = v.buffer a :=
  withBuffer_other v h _

/-- A change of a train's record that keeps its number leaves where the trains are found. -/
theorem bufferOf_withOpenTrain (hn : r₁.number = (v.buffer b).record.number) (train : Word) :
    (v.withOpenTrain (some b) r₁ axles').bufferOf train = v.bufferOf train := by
  refine State.bufferOf_congr (fun a => ?_) (fun a => ?_) train <;> by_cases e : a = b
  · rw [e, withOpenTrain_buffer_self]
  · rw [withOpenTrain_buffer_other e]
  · rw [e, withOpenTrain_buffer_self, hn]
  · rw [withOpenTrain_buffer_other e]

/-- The take does not see the open train's record beyond its number. -/
theorem settlementOf_withOpenTrain (hn : r₁.number = (v.buffer b).record.number) (q : Request) :
    (v.withOpenTrain (some b) r₁ axles').settlementOf q = v.settlementOf q := by
  have consist (a : Fin 4) : ((v.withOpenTrain (some b) r₁ axles').buffer a).consist = (v.buffer a).consist := by
    by_cases e : a = b
    · rw [e, withOpenTrain_buffer_self]
    · rw [withOpenTrain_buffer_other e]
  unfold State.settlementOf
  simp only [bufferOf_withOpenTrain hn, consist]
  rfl

/-- The take does not see the detectors. -/
theorem settlementOf_withDetectors (s : State) (ds : Det → Detector) (q : Request) :
    (s.withDetectors ds).settlementOf q = s.settlementOf q := by
  unfold State.settlementOf
  rfl

/-- An idle SE with an empty queue takes the request at once (R48, R49). -/
theorem request_taken (hn : r₁.number = (v.buffer b).record.number) {q : Request} (hb : v.bufferOf q.train = some b)
    (idle : v.se.inFlight = none) (empty : v.se.queue = []) :
    (v.withOpenTrain (some b) r₁ axles').request q =
      { v with se := { v.se with inFlight := some (v.settlementOf q) } }.withOpenTrain (some b) r₁
        (axles'.modify q.axle (·.taken q.run)) := by
  have se : (v.withOpenTrain (some b) r₁ axles').se = v.se := rfl
  unfold State.request
  rw [if_pos ⟨by rw [se, idle]; rfl, by rw [se, empty]⟩]
  unfold State.take State.alterEntry
  rw [bufferOf_withOpenTrain hn, hb, settlementOf_withOpenTrain hn]
  simp only [alterBuffer_eq_withBuffer]
  unfold State.withOpenTrain Buffer.alterAxle
  simp only [withBuffer_self, withBuffer_withBuffer]
  rfl

/-- A queue of fewer than 8 keeps the request (R48). -/
theorem request_queued {q : Request} (busy : v.se.inFlight ≠ none ∨ v.se.queue ≠ []) (room : v.se.queue.length < 8) :
    (v.withOpenTrain (some b) r₁ axles').request q =
      { v with se := { v.se with queue := v.se.queue ++ [q] } }.withOpenTrain (some b) r₁ axles' := by
  have se : (v.withOpenTrain (some b) r₁ axles').se = v.se := rfl
  unfold State.request
  rw [if_neg (by rw [se, Option.isNone_iff_eq_none]; tauto), if_pos (by rw [se]; exact room)]
  rfl

/-- Beside a full queue the axle is SKIPPED and counted (R48). -/
theorem request_skipped (hn : r₁.number = (v.buffer b).record.number) {q : Request} (hb : v.bufferOf q.train = some b)
    (full : 8 ≤ v.se.queue.length) :
    (v.withOpenTrain (some b) r₁ axles').request q =
      v.withOpenTrain (some b) { r₁ with skipped := r₁.skipped + 1 }
        (axles'.modify q.axle (fun e => { e with state := .skipped })) := by
  have se : (v.withOpenTrain (some b) r₁ axles').se = v.se := rfl
  have queued : v.se.queue ≠ [] := by
    rintro e
    simp [e] at full
  unfold State.request
  rw [if_neg (by rw [se]; tauto), if_neg (by rw [se]; omega), bufferOf_withOpenTrain hn, hb]
  simp only [alterBuffer_eq_withBuffer]
  unfold State.withOpenTrain Buffer.alterAxle
  simp only [withBuffer_self, withBuffer_withBuffer]

end

/-! ### The forward exit crossing, case by case (R35) -/

section
variable {t : Cycle} {tr : Tracked}

theorem exitForward_clean {e : AxleEntry} {t2 : Cycle} (h : tr.record.x < tr.record.f)
    (he : tr.axles[tr.record.x]? = some e) (h2 : e.run.t2 = some t2) (hb : e.run.broken = false) :
    exitForward t tr = ({ tr with
      record := { tr.record with x := tr.record.x + 1 }
      axles := tr.axles.modify tr.record.x (fun e => { e with state := .passed, run := { e.run with t3 := some t } }) },
      some { train := tr.record.number, axle := tr.record.x, run := e.run.number, dir := tr.record.dir
             t1 := e.run.t1, t2 := t2, t3 := t, twoGate := e.run.twoGate }) := by
  simp [exitForward, h, he, requestFor, Run.clean, h2, hb]

theorem exitForward_unclean (h : tr.record.x < tr.record.f)
    (hu : ∀ e, tr.axles[tr.record.x]? = some e → e.run.t2 = none ∨ e.run.broken = true) :
    exitForward t tr = ({ tr with
      record := { tr.record with x := tr.record.x + 1 }
      axles := tr.axles.modify tr.record.x (fun e => { e with state := .passed, run := { e.run with t3 := some t } }) },
      none) := by
  have no_request : (tr.axles[tr.record.x]?).bind (fun e => requestFor tr.record tr.record.x e t) = none := by
    cases he : tr.axles[tr.record.x]? with
    | none => rfl
    | some e =>
      obtain k | k := hu e he <;> simp [requestFor, Run.clean, k]
  simp [exitForward, h, no_request]

end

section
variable {now since c : Cycle} {det : Det} {dir : Dir} {s : State} {b : Fin 4} {r : TrainRecord}
  {axles : List AxleEntry}

/-- A crossing of an open train that makes a request: the train becomes what the crossing rules make of it and of the
answer of the SE. -/
theorem crossing_requests (hr : s.Running) (hw : (s.advance now).site.mode = .watch)
    (hd : ((s.advance now).detector det).AboutToCross dir c) (hs : (s.advance now).StoodFor since 2000)
    (h : (s.advance now).OpenTrain (some b) r axles) {r' r'' : TrainRecord} {axles' axles'' : List AxleEntry}
    {q : Request} {se : Settling} (hq : r''.quiet = r.quiet) (hl : r''.openLimit = r.openLimit)
    (hx : ∀ q' l, crossTrain ⟨det, dir, c⟩ ⟨{ r with quiet := q', openLimit := l }, axles, true⟩ =
      (⟨{ r' with quiet := q', openLimit := l }, axles', true⟩, some q))
    (answer : ∀ q' l,
      let v := (s.advance now).withDetectors ((s.advance now).detectorsWith det ((s.advance now).detector det).left)
      (v.withOpenTrain (some b) { r' with quiet := q', openLimit := l } axles').request q =
        { v with se := se }.withOpenTrain (some b) { r'' with quiet := q', openLimit := l } axles'') :
    let u := s.advance now
    let ds := u.detectorsWith det (u.detector det).left
    ∃ t : State, exec (.elementEdge now det (lastElement dir) false since) s = .next t ∧
      { u with se := se }.TrainBecomes t ds (some b) (u.timed det ds r'') axles'' := by
  intro u ds
  refine ⟨_, exec_crossing hr hw hd hs, ?_⟩
  have opened : (u.withDetectors ds).OpenTrain (some b) r axles := h
  have crossed : (u.withDetectors ds).crossOpen ⟨det, dir, c⟩ = ({ u with se := se }.withDetectors ds).withOpenTrain
      (some b) ((u.withDetectors ds).timersAtCrossing (isGate det) r'') axles'' := by
    rw [crossOpen_of_some opened (hx _ _), answer]
    unfold State.timersAtCrossing
    simp only [hq, hl]
    rfl
  rw [takeCrossing_open opened, crossed, ← timersAtCrossing_eq u det ds r'' r'' (.inl rfl) rfl]
  exact becomes_of_crossed (v := { u with se := se }) (place := some b) (r₀ := r) (axles₀ := axles) h
    (advance_running hr now) (by simp)
    (by simp [ds, State.detectorsWith, left_untracked])

end

/-- Settles O10: a clean run's request by the SE's answer, and the crossings without a request. -/
theorem exitCrossingRequestsASettlement : Obligations.ExitCrossingRequestsASettlement := by
  intro now since c place r axles s u det ds passed gives hr hw hd hs h unsubstituted
  have role : roleOf r.dir det = .exit := roleOf_exitGate _
  have exits (q : QuietTimer) (l : Option Cycle) :
      crossTrain ⟨det, r.dir, c⟩ ⟨{ r with quiet := q, openLimit := l }, axles, place.isSome⟩ =
        exitForward c ⟨{ r with quiet := q, openLimit := l }, axles, place.isSome⟩ := by
    rw [crossTrain_exit_forward role rfl]
    simp [unsubstituted]
  have moved {r' : TrainRecord} {axles' : List AxleEntry} (hq : r'.quiet = r.quiet) (hl : r'.openLimit = r.openLimit)
      (ha : place = none → axles' = [])
      (hx : ∀ q l, exitForward c ⟨{ r with quiet := q, openLimit := l }, axles, place.isSome⟩ =
        (⟨{ r' with quiet := q, openLimit := l }, axles', place.isSome⟩, none)) : gives u r' axles' :=
    crossing_becomes hr hw hd hs h hq hl ha fun q l => by rw [exits, hx]
  have kept (e : place = none) : axles = [] := countOnly_axles (e ▸ h)
  refine ⟨?_, ?_, ?_, ?_⟩
  · rintro before b e t2 rfl found at_x has_t2 whole q
    have record : (u.buffer b).record = r := h.2.2.2.1
    have number : r.number = (u.buffer b).record.number := by rw [record]
    have crossed (q' : QuietTimer) (l : Option Cycle) :
        crossTrain ⟨det, r.dir, c⟩ ⟨{ r with quiet := q', openLimit := l }, axles, true⟩ =
          (⟨{ r with x := r.x + 1, quiet := q', openLimit := l }, passed .passed, true⟩, some q) := (exits q' l).trans
      (exitForward_clean (t := c) (tr := ⟨{ r with quiet := q', openLimit := l }, axles, true⟩) before at_x
        has_t2 whole)
    have answered {r'' : TrainRecord} {axles'' : List AxleEntry} {se : Settling} (hq : r''.quiet = r.quiet)
        (hl : r''.openLimit = r.openLimit) (answer : ∀ q' l, ((u.withDetectors ds).withOpenTrain (some b)
            { r with x := r.x + 1, quiet := q', openLimit := l } (passed .passed)).request q =
          { u.withDetectors ds with se := se }.withOpenTrain (some b) { r'' with quiet := q', openLimit := l } axles'') :
        gives { u with se := se } r'' axles'' :=
      crossing_requests (r' := { r with x := r.x + 1 }) hr hw hd hs h hq hl crossed answer
    refine ⟨?_, ?_, ?_⟩
    · rintro ⟨idle, empty⟩
      have fixes := State.settlementOf_fixes u q
      rw [show u.bufferOf q.train = some b from found] at fixes
      have settling : (passed .passed).modify r.x (·.taken e.run.number) = passed .settling := by
        rw [List.modify_modify_eq]
        refine modify_congr fun e' he => ?_
        obtain rfl : e = e' := by simpa [at_x] using he
        simp [AxleEntry.taken]
      refine ⟨u.settlementOf q, fixes, answered rfl rfl fun q' l => ?_⟩
      rw [← settling, ← settlementOf_withDetectors u ds]
      refine request_taken (v := u.withDetectors ds) ?_ found idle empty
      exact number
    · rintro ⟨busy, room⟩
      exact answered rfl rfl fun q' l => request_queued (v := u.withDetectors ds) busy room
    · intro full
      have skipped : (passed .passed).modify r.x (fun e => { e with state := .skipped }) = passed .skipped :=
        List.modify_modify_eq ..
      refine answered (se := u.se) rfl rfl fun q' l => ?_
      rw [← skipped]
      refine request_skipped (v := u.withDetectors ds) ?_ found full
      exact number
  · intro before unclean
    exact moved rfl rfl (fun e => by simp [passed, kept e]) fun q l => exitForward_unclean before unclean
  · intro none_before over_left
    refine moved rfl rfl kept fun q l => ?_
    simp [exitForward, Nat.not_lt.2 none_before, over_left]
  · intro none_before over_gone
    refine moved rfl rfl kept fun q l => ?_
    simp [exitForward, Nat.not_lt.2 none_before, Nat.not_lt.2 over_gone]

end Sys2Proof.Machine.TrainProofs
end

section
/-!
PROOFS. The timers that close the open train, and the gates' occupancy that suspends and resumes the quiet timer (O22).
-/

namespace Sys2Proof.Machine.TrainProofs

open Sys2Proof

/-! ### What a close changes (R43 to R45) -/

/-- From `s` to `t` the open train has gone: the tracker is IDLE, TRAIN is pending, and beside the train, the alarms and
the reports nothing has changed (R43). -/
def OnlyClosed (s t : State) : Prop :=
  t.tt.tracker = .idle ∧ t.atu.pending &&& 0x20#8 = 0x20#8 ∧ t.tt.trainNumber = s.tt.trainNumber ∧ t.site = s.site ∧
  t.tbu = s.tbu ∧ t.se = s.se ∧ t.ou = s.ou ∧ t.next = s.next ∧ t.tsu = s.tsu ∧ t.lvu = s.lvu

theorem train_pending (p : BitVec 8) : (p ||| 0x20#8) &&& 0x20#8 = 0x20#8 := by
  ext i
  simp
  tauto

theorem onlyClosed_closingIn (s : State) (ds : Det → Detector) (b : Fin 4) (r : TrainRecord) (axles : List AxleEntry)
    (status : CloseStatus) : OnlyClosed s (closingIn s ds b r axles status) :=
  ⟨rfl, train_pending _, rfl, rfl, rfl, rfl, rfl, rfl, rfl, rfl⟩

theorem OnlyClosed.closeBuffer {s t : State} (h : OnlyClosed s t) (b : Fin 4) : OnlyClosed s (t.closeBuffer b) := by
  obtain ⟨idle, pending, number, site, tbu, se, ou, next, tsu, lvu⟩ := h
  obtain ⟨alarms, _⟩ := closeBuffer_frame t b
  have train := alarms.pending pending
  obtain ⟨_, _, _, _, _, e, _⟩ := alarms
  have field {α : Type} (f : State → α) := congrArg f e
  exact ⟨(field (·.tt.tracker)).trans idle, train, (field (·.tt.trainNumber)).trans number, (field (·.site)).trans site,
    (field (·.tbu)).trans tbu, (field (·.se)).trans se, (field (·.ou)).trans ou, (field (·.next)).trans next,
    (field (·.tsu)).trans tsu, (field (·.lvu)).trans lvu⟩

section
variable {s : State} {r : TrainRecord} {status : CloseStatus}

/-- The record of the open train, by its place (R27). -/
theorem openRecord_cases (h : s.openRecord = some r) :
    (∃ b, s.bufferIn .opened = some b ∧ (s.buffer b).record = r) ∨
    (s.bufferIn .opened = none ∧ ∃ c, s.tt.countOnly = some c ∧ c.record = r) := by
  unfold State.openRecord at h
  cases e : s.bufferIn .opened with
  | some b => exact .inl ⟨b, rfl, by simpa [e] using h⟩
  | none => exact .inr ⟨rfl, by simpa [e] using h⟩

theorem closeTrain_onlyClosed (h : s.openRecord = some r) : OnlyClosed s (s.closeTrain status) := by
  obtain ⟨b, opened, rfl⟩ | ⟨none_open, c, hc, rfl⟩ := openRecord_cases h
  · rw [closeTrain_of_buffer opened]
    have closing := onlyClosed_closingIn s s.detector b (s.buffer b).record (s.buffer b).axles status
    cases k : s.se.holds (s.buffer b).record.number with
    | true => simpa [k] using closing
    | false => simpa [k] using closing.closeBuffer b
  · have gone := (closeTrain_of_countOnly (axles := []) none_open hc status).1
    rw [gone]
    exact ⟨rfl, train_pending _, rfl, rfl, rfl, rfl, rfl, rfl, rfl, rfl⟩

/-- The buffers after the close of a train in one of them (R43, R44). -/
theorem closeTrain_buffers {b : Fin 4} (opened : s.bufferIn .opened = some b)
    (only : ∀ a : Fin 4, a ≠ b → (s.buffer a).record.number = (s.buffer b).record.number →
      (s.buffer a).state ≠ .opened ∧ (s.buffer a).state ≠ .closing) :
    ((s.closeTrain status).buffer b).record = (s.buffer b).record.closedAs status s.tbu.siteTime ∧
    ((s.closeTrain status).buffer b).state =
      (if s.se.holds (s.buffer b).record.number then .closing else .held) ∧
    ∀ a : Fin 4, a ≠ b → (s.closeTrain status).buffer a = s.buffer a := by
  rw [closeTrain_of_buffer opened]
  have self := closingIn_buffer (s := s) s.detector b (s.buffer b).record (s.buffer b).axles status
  have other {a : Fin 4} (h : a ≠ b) :
      (closingIn s s.detector b (s.buffer b).record (s.buffer b).axles status).buffer a = s.buffer a :=
    withBuffer_other _ h _
  generalize closingIn s s.detector b (s.buffer b).record (s.buffer b).axles status = v at self other ⊢
  cases s.se.holds (s.buffer b).record.number with
  | true =>
    simp only [if_true]
    refine ⟨by rw [self], by rw [self], fun a h => other h⟩
  | false =>
    simp only [Bool.false_eq_true, if_false]
    refine ⟨by rw [closeBuffer_record, self], by rw [closeBuffer_state, if_pos rfl], fun a h => ?_⟩
    rw [closeBuffer_others (by rw [self]; exact .inr rfl) (fun a k => ?_) h, other h]
    rw [self, other k]
    exact only a k

end

/-- The timers of O22 have run out as the model sees it (R41, R42). -/
theorem exec_expiry {now : Cycle} {c : Instr} {status : CloseStatus} {r : TrainRecord} {s : State}
    (hr : s.Running) (h : (s.advance now).openRecord = some r)
    (due : c = .quietTimeout now ∧ status = .timedOut ∧
        (∃ since left, r.quiet = .running since left ∧ left ≤ ((s.advance now).tbu.cycle - since).toNat) ∨
      c = .openLimitExpiry now ∧ status = .abandoned ∧
        (∃ start, r.openLimit = some start ∧ 10000000 * (s.advance now).site.settings.openLimit ≤
          ((s.advance now).tbu.cycle - start).toNat)) :
    exec c s = .next ((s.advance now).closeTrain status) := by
  obtain ⟨rfl, rfl, since, left, hq, past⟩ | ⟨rfl, rfl, start, hl, past⟩ := due
  · show event now s _ = _
    have ran : (s.advance now).quietDue = true := by
      unfold State.quietDue
      simp only [h, Option.any_some, hq]
      exact decide_eq_true past
    rw [event_running hr, if_pos ran]
  · show event now s _ = _
    have ran : (s.advance now).openLimitDue = true := by
      unfold State.openLimitDue
      simp only [h, Option.any_some, hl]
      exact decide_eq_true past
    rw [event_running hr, if_pos ran]

/-! ### A change of a gate's occupancy (R6, R41) -/

/-- An edge that makes no crossing and changes the tracking occupancy of a gate: the quiet timer follows, and the close
conditions are evaluated (R40, R41). -/
theorem occupancy_becomes {now since : Cycle} {det : Det} {e : Element} {covered : Bool} {place : Option (Fin 4)}
    {r : TrainRecord} {axles : List AxleEntry} {s : State} {x : Detector} (hr : s.Running) (gate : isGate det = true)
    (hc : ((s.advance now).detector det).decoder.covers e ≠ covered) (hs : (s.advance now).StoodFor since 2000)
    (h : (s.advance now).OpenTrain place r axles)
    (silent : ((s.advance now).detector det).emits e covered = none)
    (hx : (((s.advance now).detector det).decode e covered since).timeStuck ((s.advance now).detector det).decoder true
      (s.advance now).tbu.cycle = x)
    (changes : x.tracked ≠ ((s.advance now).detector det).tracked) {q : QuietTimer}
    (hq : r.quiet.sync ((s.advance now).withDetectors ((s.advance now).detectorsWith det x)).gatesClear
      (s.advance now).tbu.cycle = q) :
    ∃ t : State, exec (.elementEdge now det e covered since) s = .next t ∧
      (s.advance now).TrainBecomes t ((s.advance now).detectorsWith det x) place { r with quiet := q } axles := by
  let u := s.advance now
  let ds := u.detectorsWith det x
  refine ⟨_, exec_edge hr hc hs, ?_⟩
  have no_crossing : u.crossingAt det e covered = none := by
    unfold State.crossingAt
    simp [u, silent]
  have moved : u.moveDecoder det e covered since = (u.withDetectors ds).withOpenTrain place r axles := by
    unfold State.moveDecoder
    rw [alterDetector_eq, h.1, withOpenTrain_self (withDetectors_openTrain h ds)]
    simp only [decide_true]
    exact congrArg (fun y => u.withDetectors (u.detectorsWith det y)) hx
  have ha (k : place = none) : axles = [] := countOnly_axles (k ▸ h)
  unfold State.takeEdge
  rw [no_crossing]
  simp only []
  rw [moved]
  unfold State.afterOccupancy
  rw [if_pos ⟨gate, by rw [moved_detector]; simpa [ds, State.detectorsWith] using changes⟩]
  unfold State.occupancyChanged
  rw [moved_syncQuiet h ha, hq]
  exact becomes_of_moved h (advance_running hr now) ha _

/-- A detector that an element covers from CLEAR (R4). -/
def enters (d : Detector) (e : Element) : Detector :=
  { d with
    decoder := match e with | .e1 => .oneW | .e2 => .oneE
    entrySide := some (match e with | .e1 => .west | .e2 => .east), candidate := none }

section
variable {d : Detector} {e : Element}

theorem decode_of_clear (h : d.decoder = .clear) (time now : Cycle) :
    (d.decode e true time).timeStuck d.decoder true now = enters d e := by
  cases e <;> simp [Detector.decode, Detector.timeStuck, DecoderState.after, h, enters, sideOf]

theorem emits_of_clear (h : d.decoder = .clear) (e : Element) (covered : Bool) : d.emits e covered = none := by
  simp [Detector.emits, h]

/-- An edge on the side where the detector was entered makes no crossing (R5). -/
theorem emits_of_same_side (h : d.entrySide ≠ some (match e with | .e1 => .east | .e2 => .west)) :
    d.emits e false = none := by
  unfold Detector.emits
  split
  · cases e <;> cases k : d.entrySide with
    | none => rfl
    | some side => cases side <;> simp_all [sideOf]
  · rfl

theorem enters_tracked (h : d.service = .inService) : (enters d e).tracked = true := by
  rw [tracked_iff]
  cases e <;> simp [enters, h]

theorem not_gatesFree {ds : Det → Detector} {det : Det} (gate : isGate det = true) (h : (ds det).tracked = true) :
    ¬GatesFree ds := by
  intro free
  have := free det (by cases det <;> simp_all [isGate])
  rw [tracked_iff] at h
  tauto

theorem untracked_of_clear (h : d.decoder = .clear) : d.tracked = false := by
  rw [← Bool.not_eq_true, tracked_iff]
  simp [h]

end

/-- The quiet timer while a gate is occupied (R41). -/
theorem sync_occupied (q : QuietTimer) (now : Cycle) : q.sync false now = match q with
    | .running start left => .suspended (left - (now - start).toNat)
    | q => q := by
  cases q <;> rfl

theorem sync_free {P : Prop} [Decidable P] {clear : Bool} (h : clear = true ↔ P) (q : QuietTimer) (now : Cycle) :
    q.sync clear now = match q with
      | .suspended left => if P then .running now left else .suspended left
      | .running start left => if P then .running start left else .suspended (left - (now - start).toNat)
      | q => q := by
  cases clear <;> cases q <;> simp at h <;> simp [QuietTimer.sync, h, elapsed]

/-- Settles O22: a close by either timer, and the quiet timer at the edges of a gate. -/
theorem timersCloseTheOpenTrain : Obligations.TimersCloseTheOpenTrain := by
  refine ⟨fun now c status r s => ?_, fun now since det e place r axles s => ?_⟩
  · intro u closed hr h due
    obtain ⟨idle, pending, number, site, tbu, se, ou, next, tsu, lvu⟩ := closeTrain_onlyClosed (status := status) h
    refine ⟨_, exec_expiry hr h due, idle, pending, number, site, tbu, se, ou, next, tsu, lvu, ?_, ?_, ?_⟩
    · intro b opened only
      obtain ⟨b', opened', rfl⟩ | ⟨none_open, _⟩ := openRecord_cases h
      · obtain rfl : b = b' := by simpa [opened] using opened'
        exact closeTrain_buffers opened only
      · simp [u, none_open] at opened
    · intro none_open
      obtain ⟨b', opened, _⟩ | ⟨_, c, hc, rfl⟩ := openRecord_cases h
      · simp [u, opened] at none_open
      · obtain ⟨gone, _, _, _, shows_, full, room⟩ := closeTrain_of_countOnly (axles := []) none_open hc status
        refine ⟨by rw [gone], by rw [gone]; rfl, fun few => ?_, full, fun _ => shows_⟩
        obtain ⟨lost, x, joined, held, no_buffer, _, _, ofTrain, _⟩ := room few
        obtain ⟨number, _, close_status, _⟩ := ofTrain
        refine ⟨lost, x, joined, no_buffer, number, by simpa [TrainRecord.closedAs] using close_status, ?_⟩
        rw [held, placedByNumber_length]
    · intro place axles opened
      exact closeTrain_closesAs opened (advance_running hr now) status
  · intro u d hr not_w not_e service stood h
    have gate : isGate det = true := (isGate_iff det).2 (by simp [not_w, not_e])
    have free (x : Detector) : (u.withDetectors (u.detectorsWith det x)).gatesClear = true ↔
        GatesFree (u.detectorsWith det x) := by
      rw [gatesClear_iff, show (u.withDetectors (u.detectorsWith det x)).detector = u.detectorsWith det x from
        funext (withDetectors_detector u _)]
    refine ⟨fun clear => ?_, fun leaves => ?_⟩
    · have covers : d.decoder.covers e ≠ true := by simp [clear, DecoderState.covers]
      have occupied := enters_tracked (e := e) service
      have busy : (u.withDetectors (u.detectorsWith det (enters d e))).gatesClear = false := by
        rw [← Bool.not_eq_true, free]
        exact not_gatesFree gate (by simpa [State.detectorsWith] using occupied)
      exact occupancy_becomes hr gate covers stood h (emits_of_clear clear e true)
        (decode_of_clear clear since u.tbu.cycle) (by rw [occupied, untracked_of_clear clear]; simp)
        (by rw [busy]; exact sync_occupied _ _)
    · have covers : d.decoder.covers e ≠ false := by
        obtain ⟨k, rfl, _⟩ | ⟨k, rfl, _⟩ := leaves <;> simp [k, DecoderState.covers]
      have returns : d.decoder ≠ .clear ∧ d.decoder.after e false = .clear := by
        obtain ⟨k, rfl, _⟩ | ⟨k, rfl, _⟩ := leaves <;> simp [k, DecoderState.after]
      have silent : d.emits e false = none := by
        obtain ⟨k, rfl, side⟩ | ⟨k, rfl, side⟩ := leaves <;>
          exact emits_of_same_side side
      have before := (tracked_iff d).2 ⟨returns.1, service⟩
      exact occupancy_becomes hr gate covers stood h silent (decode_to_clear returns.1 returns.2)
        (by rw [left_untracked, before]; simp) (sync_free (free _) _ _)

end Sys2Proof.Machine.TrainProofs
end

section
/-!
PROOFS. The crossing that opens a train (O7).
-/

namespace Sys2Proof.Machine.TrainProofs

open Sys2Proof

/-! ### The machine with a train just opened (R26, R27) -/

/-- The tracker has become OPEN on a train that has no place yet, with the detectors `ds` (R7, R11, R13, R27). -/
def opening (u : State) (ds : Det → Detector) : State :=
  { u.withDetectors ds with
    sau := if u.tt.tracker = .idle then
        { u.sau with channels := u.sau.channels.map (fun c => { c with flatRun := none }) }
      else u.sau
    tt := { u.tt with tracker := .opened, trainNumber := succCount u.tt.trainNumber }
    next := none, atu := { u.atu with pending := u.atu.pending ||| 0x20#8 } }

/-- The train has taken its place with the record `r` (R27, R91). -/
def openedIn (u : State) (ds : Det → Detector) (place : Option (Fin 4)) (r : TrainRecord) : State :=
  match place with
  | some b => (opening u ds).withBuffer b { Buffer.empty with state := .opened, record := r, consist := u.next }
  | none => { opening u ds with tt := { (opening u ds).tt with
      countOnly := some { record := r, vehicles := u.next.map List.length } } }

section
variable {u : State} {ds : Det → Detector} {place : Option (Fin 4)}

/-- With no train open before, the train just opened is the open train. -/
theorem openedIn_openTrain (h : u.trainOpen = false) (r : TrainRecord) :
    (openedIn u ds place r).OpenTrain place r [] := by
  have none_open (a : Fin 4) : (u.buffer a).state ≠ .opened := by
    refine State.bufferIn_none ?_ a
    cases e : u.bufferIn .opened <;> simp [State.trainOpen, e] at h ⊢
  have no_count : u.tt.countOnly = none := by
    cases e : u.tt.countOnly <;> simp [State.trainOpen, e] at h ⊢
  refine ⟨by cases place <;> rfl, ?_⟩
  cases place with
  | none => exact ⟨none_open, rfl, rfl⟩
  | some b =>
    have self : (openedIn u ds (some b) r).buffer b =
        { Buffer.empty with state := .opened, record := r, consist := u.next } := withBuffer_self _ b _
    refine ⟨fun a => ⟨fun k => ?_, ?_⟩, no_count, by rw [self], by rw [self]; rfl⟩
    · by_contra e
      rw [show (openedIn u ds (some b) r).buffer a = u.buffer a from withBuffer_other _ e _] at k
      exact none_open a k
    · rintro rfl
      rw [self]

/-- Crossings move the record of the train just opened as that of any open train. -/
theorem openedIn_withOpenTrain (r₀ r r' : TrainRecord) (axles : List AxleEntry) :
    (openedIn u ds place r₀).withOpenTrain place r' axles =
      ((openedIn u ds place r).withDetectors ds).withOpenTrain place r' axles := by
  have detectors : (openedIn u ds place r).withDetectors ds = openedIn u ds place r := by cases place <;> rfl
  rw [detectors]
  cases place with
  | none => rfl
  | some b =>
    unfold openedIn State.withOpenTrain
    simp only [withBuffer_self, withBuffer_withBuffer]

end

/-- The lowest-numbered buffer in a state. -/
theorem bufferIn_eq {s : State} {st : BufferState} {place : Option (Fin 4)}
    (h : ∀ b, place = some b → (s.buffer b).state = st ∧ ∀ a : Fin 4, a < b → (s.buffer a).state ≠ st)
    (k : place = none → ∀ a : Fin 4, (s.buffer a).state ≠ st) : s.bufferIn st = place := by
  unfold State.bufferIn
  cases place with
  | none => exact List.find?_eq_none.2 fun a _ => by simpa using k rfl a
  | some b =>
    obtain ⟨found, first⟩ := h b rfl
    rw [List.find?_eq_some_iff_getElem]
    refine ⟨by simpa using found, b.val, by simp, by simp, fun j hj => ?_⟩
    have := first ⟨j, by omega⟩ hj
    simpa using this

theorem enterTracker_opened (v : State) : v.enterTracker .opened =
    { v.withDetectors (fun d => { v.detector d with stuckTimer := none }) with
      sau := if v.tt.tracker = .idle then
          { v.sau with channels := v.sau.channels.map (fun c => { c with flatRun := none }) }
        else v.sau
      tt := { v.tt with tracker := .opened } } := by
  have wdi : alterAll v.wdi (fun d => d.onTracker true v.tbu.cycle) =
      Vector.ofFn (fun i => { v.detector (detOf i) with stuckTimer := none }) := by
    apply vector_ext_get
    intro i
    rw [alterAll_get, vector_get_eq (Vector.ofFn _), Vector.getElem_ofFn]
    unfold State.detector
    rw [detIndex_detOf]
    rfl
  have channels : alterAll v.sau.channels (fun c => { c with flatRun := none }) =
      v.sau.channels.map (fun c => { c with flatRun := none }) := by
    apply vector_ext_get
    intro i
    rw [alterAll_get, vector_get_eq, vector_get_eq, Vector.getElem_map]
  unfold State.enterTracker State.withDetectors
  simp [wdi, channels]

/-- A train opens in its place (R26, R27). -/
theorem openTrain_eq {u : State} {place : Option (Fin 4)} (h : u.bufferIn .free = place) (es : Det → Detector)
    (dir : Dir) : (u.withDetectors es).openTrain dir = openedIn u (fun d => { es d with stuckTimer := none }) place
      ((u.withDetectors es).openingRecord dir (succCount u.tt.trainNumber)) := by
  have detectors (tt : Tracking) (consist : Option (List Vehicle)) :
      State.detector { u.withDetectors es with tt := tt, next := consist } = es := funext (withDetectors_detector u es)
  unfold State.openTrain
  rw [show (u.withDetectors es).bufferIn .free = place from h]
  cases place with
  | none =>
    simp only []
    rw [enterTracker_opened, detectors]
    rfl
  | some b =>
    simp only []
    rw [enterTracker_opened, detectors]
    have placed := alterBuffer_eq_withBuffer (opening u (fun d => { es d with stuckTimer := none })) b (fun _ =>
      { Buffer.empty with
        state := .opened
        record := (u.withDetectors es).openingRecord dir (succCount u.tt.trainNumber), consist := u.next })
    exact Eq.trans (by rfl) placed

/-! ### The opening crossing (R26, R40 to R42) -/

/-- The record that a train opens with, but for the gates' occupancy at its quiet timer (R26, R28). -/
theorem openingRecord_eq (u : State) {det : Det} {x : Detector} (same : x.service = (u.detector det).service) (dir : Dir)
    (number : Word) :
    let v := u.withDetectors (u.detectorsWith det x)
    v.openingRecord dir number = { u.openingRecord dir number with
      quiet := (QuietTimer.running u.tbu.cycle u.quietFull).sync v.gatesClear u.tbu.cycle } := by
  intro v
  have service (d : Det) : (v.detector d).service = (u.detector d).service := by
    rw [withDetectors_detector]
    unfold State.detectorsWith
    split
    · next e => rw [same, e]
    · rfl
  have services : v.wdi.map (·.service) = u.wdi.map (·.service) := by
    apply vector_ext_get
    intro i
    rw [vector_get_eq, vector_get_eq, Vector.getElem_map, Vector.getElem_map]
    have := service (detOf i)
    unfold State.detector at this
    rwa [detIndex_detOf] at this
  have faulted : v.anyFaulted = u.anyFaulted := by
    have any_map (s : State) : s.wdi.toList.any (·.service.faulted) =
        (s.wdi.map (·.service)).toList.any (·.faulted) := by
      rw [Vector.toList_map, List.any_map]
      rfl
    unfold State.anyFaulted
    rw [any_map, any_map, services]
    rfl
  unfold State.openingRecord
  simp only [faulted, service]
  rfl

/-- A crossing that opens a train is then taken at its gate, and the close conditions are evaluated (R26, R40). -/
theorem openingCrossing_becomes {now since c : Cycle} {det : Det} {dir : Dir} {s : State} {place : Option (Fin 4)}
    {r r' : TrainRecord} {axles : List AxleEntry} {ds : Det → Detector} (gate : isGate det = true) (hr : s.Running)
    (hw : (s.advance now).site.mode = .watch) (hd : ((s.advance now).detector det).AboutToCross dir c)
    (hs : (s.advance now).StoodFor since 2000) (unopened : (s.advance now).tt.tracker ≠ .opened)
    (shut : (s.advance now).trainOpen = false) (free : (s.advance now).bufferIn .free = place)
    (hds : ds = fun d => { (s.advance now).detectorsWith det ((s.advance now).detector det).left d with
      stuckTimer := none })
    (hrec : r = { (s.advance now).openingRecord dir (succCount (s.advance now).tt.trainNumber) with
      quiet := .running (s.advance now).tbu.cycle (s.advance now).quietFull })
    (hq : r'.quiet = r.quiet) (hl : r'.openLimit = r.openLimit) (ha : place = none → axles = [])
    (hx : ∀ q l, crossTrain ⟨det, dir, c⟩ ⟨{ r with quiet := q, openLimit := l }, [], place.isSome⟩ =
      (⟨{ r' with quiet := q, openLimit := l }, axles, place.isSome⟩, none)) :
    ∃ t : State, exec (.elementEdge now det (lastElement dir) false since) s = .next t ∧
      (openedIn (s.advance now) ds place r).TrainBecomes t ds place
        ((openedIn (s.advance now) ds place r).timed det ds r') axles := by
  refine ⟨_, exec_crossing hr hw hd hs, ?_⟩
  have hru := advance_running hr now
  generalize s.advance now = u at *
  let w := u.withDetectors (u.detectorsWith det (u.detector det).left)
  let q₀ := (QuietTimer.running u.tbu.cycle u.quietFull).sync w.gatesClear u.tbu.cycle
  have record : w.openingRecord dir (succCount u.tt.trainNumber) = { r with quiet := q₀ } := by
    have opening_ := openingRecord_eq u (det := det) (x := (u.detector det).left) rfl dir (succCount u.tt.trainNumber)
    rw [hrec]
    exact opening_
  have opens : w.openTrain dir = openedIn u ds place { r with quiet := q₀ } := by
    rw [hds, ← record]
    exact openTrain_eq free _ dir
  have taken : w.takeCrossing ⟨det, dir, c⟩ = ((w.openTrain dir).crossOpen ⟨det, dir, c⟩).evaluateClose := by
    unfold State.takeCrossing
    cases e : w.tt.tracker with
    | opened => exact absurd e unopened
    | idle => simp only [gate, if_true]
    | approach a => simp only [gate, if_true]
  let v := openedIn u ds place r
  have opened := openedIn_openTrain (ds := ds) (place := place) shut { r with quiet := q₀ }
  have at_gate : v.OpenTrain place r [] := openedIn_openTrain shut r
  have crossed : (openedIn u ds place { r with quiet := q₀ }).crossOpen ⟨det, dir, c⟩ =
      (v.withDetectors ds).withOpenTrain place
        ((v.withDetectors ds).timersAtCrossing (isGate det) { r' with quiet := q₀ }) axles := by
    rw [crossOpen_of_none opened (hx _ _), openedIn_withOpenTrain _ r]
    unfold State.timersAtCrossing
    simp only [hl]
    cases place <;> rfl
  have synced : q₀ = r'.quiet.sync w.gatesClear v.tbu.cycle := by
    rw [hq, hrec]
    cases place <;> rfl
  rw [taken, opens, crossed, ← timersAtCrossing_eq v det ds r' { r' with quiet := q₀ }
    (.inr ⟨w.gatesClear, synced, gate⟩) rfl]
  exact becomes_of_crossed at_gate (by cases place <;> exact hru) ha (by
    rw [hds]
    simp [State.detectorsWith, Detector.tracked, Detector.left])

/-- Settles O7: the train opens with its record, and the opening crossing is one of the crossing rules. -/
theorem entryCrossingOpensATrain : Obligations.EntryCrossingOpensATrain := by
  intro now since c dir det place s u ds number r base opened entry gives hr hw hd hs unopened shut in_buffer count_only
  have free : u.bufferIn .free = place := bufferIn_eq in_buffer count_only
  have hrec : r = { u.openingRecord dir number with quiet := .running u.tbu.cycle u.quietFull } := by
    have sub : ((u.detector .g2).service != .inService) = decide ((u.detector .g2).service ≠ .inService) := by
      rw [Bool.eq_iff_iff]
      simp
    have trim : (u.tbu.trim != .trimmed) = decide (u.tbu.trim ≠ .trimmed) := by
      rw [Bool.eq_iff_iff]
      simp
    unfold State.openingRecord
    rw [sub, trim]
    rfl
  have opens : opened = openedIn u ds place r := by
    cases place <;> rfl
  have given {r' : TrainRecord} {axles : List AxleEntry} (gate : isGate det = true) (hq : r'.quiet = r.quiet)
      (hl : r'.openLimit = r.openLimit) (ha : place = none → axles = [])
      (hx : ∀ q l, crossTrain ⟨det, dir, c⟩ ⟨{ r with quiet := q, openLimit := l }, [], place.isSome⟩ =
        (⟨{ r' with quiet := q, openLimit := l }, axles, place.isSome⟩, none)) : gives r' axles := by
    have becomes := openingCrossing_becomes gate hr hw hd hs unopened shut free rfl hrec hq hl ha hx
    rw [← opens] at becomes
    exact becomes
  refine ⟨?_, ?_, ?_, ?_⟩
  · rintro rfl
    refine given (by cases dir <;> rfl) rfl rfl (fun _ => rfl) fun q l => ?_
    rw [crossTrain_entry (roleOf_entryGate _), if_pos rfl]
    rfl
  · rintro rfl
    have in_service : r.substituted = false := by simp [r, hd.1]
    refine given rfl rfl rfl (fun e => if_pos e) fun q l => ?_
    rw [crossTrain_middle (roleOf_g2 _), if_neg (by simp [in_service]), if_pos rfl]
    cases place <;> rfl
  · rintro rfl sub
    refine given (by cases dir <;> rfl) rfl rfl (fun e => if_pos e) fun q l => ?_
    rw [crossTrain_exit_forward (roleOf_exitGate _) rfl, if_pos sub]
    cases place <;> rfl
  · rintro rfl sub
    refine given (by cases dir <;> rfl) rfl rfl (fun _ => rfl) fun q l => ?_
    rw [crossTrain_exit_forward (roleOf_exitGate _) rfl, if_neg (by simp [sub])]
    rfl

end Sys2Proof.Machine.TrainProofs
end

section
/-!
PROOFS. The bogies of an axle table and the BEARING_DIFF alarms, as BogiesOf and diffAlarmsOf state them (R83, R94,
R95): parts of the close computations (O26).
-/

namespace Sys2Proof.Machine.TrainProofs

open Sys2Proof

/-! ### Joined entries (R94, R95) -/

theorem spacingReady_some_iff (e : AxleEntry) (v : Nat) (t2 : Cycle) :
    e.spacingReady = some (v, t2) ↔ e.Ready v t2 := by
  unfold AxleEntry.spacingReady AxleEntry.Ready
  cases e.speed <;> cases e.temps <;> cases e.run.t2 <;> simp
  tauto

theorem spacing_some_iff (rate : Nat) (a b : AxleEntry) (d : Nat) : spacing rate a b = some d ↔
    ∃ (u v : Nat) (ta tb : Cycle), a.Ready u ta ∧ b.Ready v tb ∧ 0 < (tb - ta).toInt ∧
      8 * ((v : Int) - u).natAbs ≤ max u v ∧ ((tb - ta).toInt.toNat * v + rate / 2) / rate = d := by
  simp only [← spacingReady_some_iff]
  unfold spacing
  cases a.spacingReady with
  | none => simp
  | some x =>
    cases b.spacingReady with
    | none => simp
    | some y =>
      obtain ⟨u, ta⟩ := x
      obtain ⟨v, tb⟩ := y
      simp only [Option.ite_none_right_eq_some, Option.some.injEq, distance_eq_natAbs]
      constructor
      · rintro ⟨⟨later, alike⟩, rfl⟩
        exact ⟨u, v, ta, tb, rfl, rfl, later, by rwa [Nat.max_comm], rfl⟩
      · rintro ⟨_, _, _, _, ⟨rfl, rfl⟩, ⟨rfl, rfl⟩, later, alike, rfl⟩
        exact ⟨⟨later, by rwa [Nat.max_comm]⟩, rfl⟩

/-- The spacing over a positive time is the same in the naturals and in the integers (R94). -/
theorem roundedSpacing_le_iff {dt : Int} (h : 0 < dt) (v rate most : Nat) :
    (dt.toNat * v + rate / 2) / rate ≤ most ↔ (dt * v + (rate / 2 : Nat)) / rate ≤ most := by
  obtain ⟨n, rfl⟩ := Int.eq_ofNat_of_zero_le h.le
  rw [Int.toNat_natCast]
  norm_cast

theorem joined_iff (rate most : Nat) (a b : AxleEntry) : joined rate most a b = true ↔ Joined rate most a b := by
  unfold joined Joined
  simp only [Option.any_eq_true, spacing_some_iff, decide_eq_true_eq]
  constructor
  · rintro ⟨d, ⟨u, v, ta, tb, ha, hb, later, alike, rfl⟩, near⟩
    exact ⟨u, v, ta, tb, ha, hb, later, alike, (roundedSpacing_le_iff later ..).1 near⟩
  · rintro ⟨u, v, ta, tb, ha, hb, later, alike, near⟩
    exact ⟨_, ⟨u, v, ta, tb, ha, hb, later, alike, rfl⟩, (roundedSpacing_le_iff later ..).2 near⟩

/-! ### The runs (R95) -/

/-- The lengths of the runs are those of the groups of joined entries. -/
theorem splitBy_loop_lengths (rate most : Nat) (rest : List AxleEntry) : ∀ (a : AxleEntry) (g : List AxleEntry)
    (gs : List (List AxleEntry)), (List.splitBy.loop (joined rate most) rest a g gs).map List.length =
      (gs.map List.length).reverse ++ runLengths rate most a (g.length + 1) rest := by
  induction rest with
  | nil => simp [List.splitBy.loop, runLengths]
  | cons b rest ih =>
    intro a g gs
    unfold List.splitBy.loop runLengths
    cases joined rate most a b with
    | true => exact ih b (a :: g) gs
    | false => simp [ih b []]

/-- The index of a group of entries in the numbering from `k` on, after the groups `before` (R95). -/
def bogieOf (k : Nat) (before : List (List AxleEntry)) (g : List AxleEntry) : Nat :=
  if 2 ≤ g.length ∧ g.length ≤ 4 then before.countP (fun h => 2 ≤ h.length ∧ h.length ≤ 4) + k else 0

theorem bogieIndices_eq (runs : List (List AxleEntry)) : ∀ k : Nat, bogieIndices k (runs.map List.length) =
    runs.zipIdx.flatMap (fun g => List.replicate g.1.length (bogieOf k (runs.take g.2) g.1)) := by
  induction runs with
  | nil => intro k; rfl
  | cons g runs ih =>
    intro k
    rw [List.map_cons, bogieIndices, List.zipIdx_cons', List.flatMap_cons, List.flatMap_map]
    have later (j : Nat) (h : List AxleEntry) : bogieOf k ((g :: runs).take (j + 1)) h =
        bogieOf (if 2 ≤ g.length ∧ g.length ≤ 4 then k + 1 else k) (runs.take j) h := by
      unfold bogieOf
      rw [List.take_succ_cons, List.countP_cons]
      by_cases short : 2 ≤ g.length ∧ g.length ≤ 4
      · simp [short, Nat.add_assoc, Nat.add_comm 1]
      · simp [short]
    simp only [Prod.map, id, later]
    split
    · next short =>
      rw [ih]
      simp [bogieOf, short]
    · next long =>
      rw [ih]
      simp [bogieOf, long]

/-- The bogie indices that the close computes are those of R95. -/
theorem groupBogies_bogiesOf (rate most : Nat) (axles : List AxleEntry) :
    BogiesOf rate most axles (groupBogies rate most axles) := by
  refine ⟨axles.splitBy (joined rate most), List.flatten_splitBy _ _, fun g => List.ne_nil_of_mem_splitBy, ?_, ?_, ?_⟩
  · intro g hg i a b ha hb
    have chain := List.isChain_iff_getElem.1 (List.isChain_of_mem_splitBy hg)
    obtain ⟨hi, rfl⟩ := List.getElem?_eq_some_iff.1 ha
    obtain ⟨hj, rfl⟩ := List.getElem?_eq_some_iff.1 hb
    exact (joined_iff ..).1 (chain i hj)
  · intro k g h a b hg hh ha hb
    have chain := List.isChain_iff_getElem.1 (List.isChain_getLast_head_splitBy (joined rate most) axles)
    obtain ⟨hi, rfl⟩ := List.getElem?_eq_some_iff.1 hg
    obtain ⟨hj, rfl⟩ := List.getElem?_eq_some_iff.1 hh
    obtain ⟨ne, ne', apart⟩ := chain k hj
    rw [List.getLast?_eq_some_getLast ne] at ha
    rw [List.head?_eq_some_head ne'] at hb
    cases ha
    cases hb
    rw [← joined_iff, apart]
    simp
  · have lengths : groupBogies rate most axles =
        bogieIndices 1 ((axles.splitBy (joined rate most)).map List.length) := by
      cases axles with
      | nil => rfl
      | cons a rest => exact congrArg (bogieIndices 1) (splitBy_loop_lengths rate most rest a [] []).symm
    rw [lengths, bogieIndices_eq]
    rfl

theorem groupBogies_length (rate most : Nat) (axles : List AxleEntry) :
    (groupBogies rate most axles).length = axles.length := by
  obtain ⟨runs, rfl, _, _, _, e⟩ := groupBogies_bogiesOf rate most axles
  rw [e]
  simp only [List.length_flatMap, List.length_replicate, List.length_flatten]
  conv_rhs => rw [← List.zipIdx_map_fst 0 runs, List.map_map]
  rfl

/-! ### The BEARING_DIFF alarms (R83) -/

theorem bearing_eq (e : AxleEntry) (place : Fin 4) : e.bearing place = e.bearingRise place := by
  unfold AxleEntry.bearing AxleEntry.bearingRise AxleEntry.rise
  cases e.temps <;> rfl

theorem filterMap_pair {α β : Type} (f : α → Option β) (x y : α) :
    [x, y].filterMap f = (f x).toList ++ (f y).toList := by
  cases hx : f x <;> cases hy : f y <;> simp [hx, hy]

/-- The BEARING_DIFF alarms that the close raises are those of R83. -/
theorem diffAlarms_eq (warn : Nat) (train : Word) (axles : List AxleEntry) :
    diffAlarms warn train axles = diffAlarmsOf warn train axles := by
  unfold diffAlarms diffAlarmsOf
  congr 1
  funext x
  obtain ⟨e, i⟩ := x
  have alarm (place : Fin 4) (rail : Rail) : diffAlarm warn train axles i e place rail =
      (e.bearingRise place).bind (fun rise =>
        let others := axles.zipIdx.filterMap (fun y =>
          if y.1.bogie = e.bogie ∧ y.2 ≠ i then y.1.bearingRise place else none)
        let diff : Int := (rise : Int) - ((others.sum / others.length : Nat) : Int)
        if e.bogie = 0 ∨ others = [] ∨ diff < warn then none
        else some { kind := .bearingDiff, level := .warn, train := train, axle := i, rail := rail
                    value := diff.toNat, threshold := warn }) := by
    unfold diffAlarm bearingDiff otherBearings
    simp only [bearing_eq]
    cases e.bearingRise place with
    | none => rfl
    | some rise =>
      simp only [Option.bind_some]
      split
      · next skipped =>
        rw [if_pos (by tauto)]
        rfl
      · next judged_ =>
        rw [Option.bind_some]
        split
        · next high =>
          rw [if_neg]
          rintro (k | k | k)
          exacts [judged_ (.inl k), judged_ (.inr k), not_lt.2 high k]
        · next low => rw [if_pos (.inr (.inr (not_le.1 low)))]
  rw [filterMap_pair]
  show (diffAlarm warn train axles i e 0 .a).toList ++ (diffAlarm warn train axles i e 1 .b).toList = _
  rw [alarm, alarm]

end Sys2Proof.Machine.TrainProofs
end

section
/-!
PROOFS. The vehicles of a train at its close, as Buffer.Mapped states them (R93, R96, R97): a part of the close
computations (O26).
-/

namespace Sys2Proof.Machine.TrainProofs

open Sys2Proof

/-! ### The vehicle that owns an entry (R92, R96) -/

theorem axlesBefore_succ (v : Vehicle) (vs : List Vehicle) (k : Nat) :
    axlesBefore (v :: vs) (k + 1) = v.axles + axlesBefore vs k := by
  simp [axlesBefore]

theorem consistTotal_eq (vs : List Vehicle) : consistTotal vs = axlesBefore vs vs.length := by
  simp [consistTotal, axlesBefore]

theorem vehicleIndex_covered (vs : List Vehicle) : ∀ (n k i : Nat) (v : Vehicle), vs[k]? = some v →
    axlesBefore vs k ≤ i → i < axlesBefore vs k + v.axles → vehicleIndex vs n i = n + k := by
  induction vs with
  | nil => simp
  | cons x xs ih =>
    intro n k i v hv lo hi
    cases k with
    | zero =>
      obtain rfl : x = v := by simpa using hv
      simp only [axlesBefore, List.take_zero, List.map_nil, List.sum_nil, Nat.zero_add] at hi
      exact if_pos hi
    | succ k =>
      rw [axlesBefore_succ] at lo hi
      unfold vehicleIndex
      rw [if_neg (by omega), ih (n + 1) k (i - x.axles) v (by simpa using hv) (by omega) (by omega)]
      omega

theorem vehicleIndex_uncovered (vs : List Vehicle) : ∀ n i : Nat, axlesBefore vs vs.length ≤ i →
    vehicleIndex vs n i = 0 := by
  induction vs with
  | nil => exact fun _ _ _ => rfl
  | cons x xs ih =>
    intro n i beyond
    rw [List.length_cons, axlesBefore_succ] at beyond
    unfold vehicleIndex
    rw [if_neg (by omega), ih (n + 1) (i - x.axles) (by omega)]

theorem covering_isSome (vs : List Vehicle) : ∀ i : Nat,
    (covering vs i).isSome = true ↔ i < axlesBefore vs vs.length := by
  induction vs with
  | nil => simp [covering, axlesBefore]
  | cons x xs ih =>
    intro i
    rw [List.length_cons, axlesBefore_succ]
    unfold covering
    split
    · simp
      omega
    · rw [ih]
      omega

/-! ### The results of a vehicle (R96) -/

theorem alarmBits_getLsbD (owned : List AxleEntry) (k : Nat) : ∀ bits : BitVec 6,
    (owned.foldl (fun b e => b ||| e.alarmBits) bits).getLsbD k = true ↔
      bits.getLsbD k = true ∨ ∃ e ∈ owned, e.alarmBits.getLsbD k = true := by
  induction owned with
  | nil => simp
  | cons e owned ih =>
    intro bits
    rw [List.foldl_cons, ih]
    simp [or_assoc]

theorem vehicleResult_of (first : Nat) (owned : List AxleEntry) : (vehicleResult first owned).Of first owned := by
  refine ⟨rfl, rfl, sum_weighedLoad owned, countP_weighed owned, fun k => ?_⟩
  exact (alarmBits_getLsbD owned k 0).trans (by simp)

theorem vehicleResults_length (vs : List Vehicle) : ∀ (first : Nat) (axles : List AxleEntry),
    (vehicleResults vs first axles).length = vs.length := by
  induction vs with
  | nil => exact fun _ _ => rfl
  | cons v vs ih =>
    intro first axles
    simp [vehicleResults, ih]

theorem vehicleResults_getElem? (vs : List Vehicle) : ∀ (first k : Nat) (axles : List AxleEntry) (v : Vehicle),
    vs[k]? = some v → (vehicleResults vs first axles)[k]? = some (vehicleResult (first + axlesBefore vs k)
      ((axles.drop (axlesBefore vs k)).take v.axles)) := by
  induction vs with
  | nil => simp
  | cons x xs ih =>
    intro first k axles v hv
    unfold vehicleResults
    cases k with
    | zero =>
      obtain rfl : x = v := by simpa using hv
      simp [axlesBefore]
    | succ k =>
      rw [List.getElem?_cons_succ, ih _ k _ v (by simpa using hv), axlesBefore_succ, List.drop_drop, Nat.add_assoc]

/-! ### The buffer after the mapping (R93, R96, R97) -/

/-- An entry at an index with the vehicle that owns it and its *consist-late* mark (R93, R96). -/
def mappedEntry (vs : List Vehicle) (i : Nat) (e : AxleEntry) : AxleEntry :=
  { e with
    vehicle := vehicleIndex vs 1 i
    consistLate := e.consistLate || (e.load.any (fun l => l.source == .default) && (covering vs i).isSome) }

theorem mapVehicles_markLate (x : Buffer) {vs : List Vehicle} (h : x.consist = some vs) :
    x.mapVehicles.markLate = { x with
      axles := x.axles.zipIdx.map (fun e => mappedEntry vs e.2 e.1), vehicles := vehicleResults vs 0 x.axles
      mismatch := consistTotal vs != x.record.entries } := by
  have entries : (x.axles.zipIdx.map (fun (e, i) => { e with vehicle := vehicleIndex vs 1 i })).zipIdx.map (fun (e, i) =>
      if e.load.any (fun l => l.source == .default) ∧ (covering vs i).isSome then
        { e with consistLate := true }
      else e) = x.axles.zipIdx.map (fun e => mappedEntry vs e.2 e.1) := by
    apply List.ext_getElem?
    intro i
    simp only [List.getElem?_map, List.getElem?_zipIdx, Nat.zero_add, Option.map_map]
    congr 1
    funext e
    simp only [Function.comp]
    unfold mappedEntry
    split
    · next late => simp [late]
    · next early =>
      have : (e.load.any (fun l => l.source == .default) && (covering vs i).isSome) = false := by
        rwa [← Bool.not_eq_true, Bool.and_eq_true]
      simp [this]
  unfold Buffer.mapVehicles
  simp only [h]
  unfold Buffer.markLate
  simp only [entries]

/-- The vehicles of a closing buffer are mapped and its *consist-late* marks set. -/
theorem mapped_close (x : Buffer) (board : Board) :
    ({ x.mapVehicles.markLate.finalCopy board with state := .held } : Buffer).Mapped x.axles x.record.entries := by
  cases hc : x.consist with
  | none =>
    have e : x.mapVehicles.markLate = { x with vehicles := [], mismatch := false } := by
      simp [Buffer.mapVehicles, Buffer.markLate, hc]
    rw [e]
    refine ⟨rfl, fun i e e' he he' => ?_, fun _ => ⟨rfl, rfl⟩, fun vs k => ?_⟩
    · obtain rfl : e = e' := Option.some.inj (he.symm.trans he')
      exact ⟨rfl, fun _ => rfl, fun vs k => by simp [Buffer.finalCopy, hc] at k⟩
    · simp [Buffer.finalCopy, hc] at k
  | some vs =>
    rw [mapVehicles_markLate x hc]
    have listed {ws : List Vehicle} (k : x.consist = some ws) : vs = ws := Option.some.inj (hc.symm.trans k)
    refine ⟨by simp [Buffer.finalCopy], fun i e e' he he' => ?_, fun k => ?_, fun ws k => ?_⟩
    · obtain rfl : mappedEntry vs i e = e' := by simpa [Buffer.finalCopy, List.getElem?_zipIdx, he] using he'
      refine ⟨rfl, fun k => ?_, fun ws k => ?_⟩
      · simp [Buffer.finalCopy, hc] at k
      · obtain rfl := listed k
        refine ⟨fun k v hv lo hi => ?_, fun beyond => vehicleIndex_uncovered vs 1 i beyond, ?_⟩
        · rw [Nat.add_comm]
          exact vehicleIndex_covered vs 1 k i v hv lo hi
        · simp only [mappedEntry, Bool.or_eq_true, Bool.and_eq_true, covering_isSome]
          simp [Option.any_eq_true]
    · simp [Buffer.finalCopy, hc] at k
    · obtain rfl := listed k
      refine ⟨by simp [Buffer.finalCopy, consistTotal_eq], vehicleResults_length vs 0 x.axles, fun k v hv => ?_⟩
      refine ⟨_, vehicleResults_getElem? vs 0 k x.axles v hv, ?_⟩
      rw [Nat.zero_add]
      exact vehicleResult_of _ _

end Sys2Proof.Machine.TrainProofs
end

section
/-!
PROOFS. The keys on the board through the alarms of a close, and the board outcomes of the final copy (R102, R105):
parts of the close computations (O26).
-/

namespace Sys2Proof.Machine.TrainProofs

open Sys2Proof

/-! ### The keys on the board (R105) -/

/-- The key of a record (chapter 6, introduction). -/
def keyOf (r : AlarmRecord) : Word × Nat × Rail × AlarmKind := (r.train, r.axle, r.rail, r.kind)

/-- The key that an alarm raises. -/
def keyRaised (a : Alarm) : Word × Nat × Rail × AlarmKind := (a.train, a.axle, a.rail, a.kind)

theorem hasKey_iff (r : AlarmRecord) (train : Word) (axle : Nat) (rail : Rail) (kind : AlarmKind) :
    r.hasKey train axle rail kind = true ↔ keyOf r = (train, axle, rail, kind) := by
  simp [AlarmRecord.hasKey, keyOf, and_assoc]

theorem find_some {b : Board} {train : Word} {axle : Nat} {rail : Rail} {kind : AlarmKind} {p : Fin 32}
    (h : b.find train axle rail kind = some p) :
    ∃ r, b.positions.get p = some r ∧ keyOf r = (train, axle, rail, kind) := by
  have carries : (b.positions.get p).any (·.hasKey train axle rail kind) = true := by simpa using List.find?_some h
  obtain ⟨r, hr, k⟩ := (Option.any_eq_true ..).1 carries
  exact ⟨r, hr, (hasKey_iff ..).1 k⟩

theorem find_none {b : Board} {train : Word} {axle : Nat} {rail : Rail} {kind : AlarmKind}
    (h : b.find train axle rail kind = none) {p : Fin 32} {r : AlarmRecord} (hp : b.positions.get p = some r) :
    keyOf r ≠ (train, axle, rail, kind) := by
  have := List.find?_eq_none.1 h p (List.mem_finRange p)
  rw [Ne, ← hasKey_iff]
  simpa [hp] using this

theorem keysDistinct_iff (s : State) : s.KeysDistinct ↔ ∀ (p q : Fin 32) (r t : AlarmRecord),
    s.ab.positions.get p = some r → s.ab.positions.get q = some t → keyOf r = keyOf t → p = q := by
  unfold State.KeysDistinct keyOf
  simp only [Prod.mk.injEq, and_imp]

/-- The keys stay distinct as a position is given a record whose key no other position carries. -/
theorem keysDistinct_of_set {s t : State} {p : Fin 32} {x : Option AlarmRecord} (h : s.KeysDistinct)
    (e : t.ab.positions = s.ab.positions.set p.val x p.isLt)
    (fresh : ∀ (q : Fin 32) (r y : AlarmRecord), x = some r → s.ab.positions.get q = some y → keyOf y = keyOf r →
      q = p) :
    t.KeysDistinct := by
  have self : t.ab.positions.get p = x := by rw [e, vector_get_eq, Vector.getElem_set_self]
  have other {q : Fin 32} (k : q ≠ p) : t.ab.positions.get q = s.ab.positions.get q := by
    rw [e, vector_get_eq, vector_get_eq, Vector.getElem_set_ne _ _ (fun c => k (Fin.ext c.symm))]
  rw [keysDistinct_iff] at h ⊢
  intro a b r t ha hb key
  by_cases ea : a = p <;> by_cases eb : b = p
  · rw [ea, eb]
  · rw [other eb] at hb
    rw [ea, self] at ha
    exact absurd (fresh b r t ha hb key.symm) eb
  · rw [other ea] at ha
    rw [eb, self] at hb
    exact absurd (fresh a t r hb ha key) ea
  · rw [other ea] at ha
    rw [other eb] at hb
    exact h a b r t ha hb key

theorem keysDistinct_putRecord {s : State} (h : s.KeysDistinct) {p : Fin 32} {r : AlarmRecord}
    (fresh : ∀ (q : Fin 32) (y : AlarmRecord), s.ab.positions.get q = some y → keyOf y = keyOf r → q = p) :
    (s.putRecord p r).KeysDistinct :=
  keysDistinct_of_set h (State.putRecord_positions s p r) fun q _ y e hy key => by
    cases e
    exact fresh q y hy key

theorem keysDistinct_mirrorAll {s : State} (h : s.KeysDistinct) (ps : List (Fin 32)) :
    (ps.foldl State.mirror s).KeysDistinct :=
  foldl_keeps State.KeysDistinct (f := State.mirror) (fun _ _ k => k) ps s h

theorem keyOf_startWindow (s : State) (r : AlarmRecord) : keyOf (s.startWindow r) = keyOf r := by
  unfold State.startWindow
  simp only []
  split <;> rfl

theorem keyOf_updatedRecord (s : State) (r : AlarmRecord) (a : Alarm) : keyOf (s.updatedRecord r a) = keyOf r := by
  unfold State.updatedRecord
  simp only []
  split
  · exact keyOf_startWindow ..
  · exact keyOf_startWindow ..
  · rfl

theorem keyOf_newRecord (s : State) (a : Alarm) (id : Nat) : keyOf (s.newRecord a id) = keyRaised a := by
  unfold State.newRecord
  simp only []
  split
  · exact keyOf_startWindow ..
  · rfl

theorem keysDistinct_createAt {s : State} (h : s.KeysDistinct) {p : Fin 32} {a : Alarm}
    (fresh : ∀ (q : Fin 32) (y : AlarmRecord), s.ab.positions.get q = some y → keyOf y ≠ keyRaised a) :
    (s.createAt p a).KeysDistinct := by
  unfold State.createAt
  refine keysDistinct_putRecord (by exact h) fun q y hy key => ?_
  rw [keyOf_newRecord] at key
  exact absurd key (fresh q y hy)

/-- An alarm leaves the keys on the board distinct (R107 to R110). -/
theorem keysDistinct_placeOnBoard {s : State} (h : s.KeysDistinct) (a : Alarm) : (s.placeOnBoard a).1.KeysDistinct := by
  unfold State.placeOnBoard
  split
  · next p found =>
    obtain ⟨r, hr, key⟩ := find_some found
    simp only [hr]
    refine keysDistinct_putRecord h fun q y hy same => ?_
    rw [keyOf_updatedRecord] at same
    exact (keysDistinct_iff s).1 h q p y r hy hr same
  · next missing =>
    have fresh (q : Fin 32) (y : AlarmRecord) (hy : s.ab.positions.get q = some y) : keyOf y ≠ keyRaised a :=
      find_none missing hy
    split
    · exact keysDistinct_createAt h fresh
    · split
      · next p _ =>
        refine keysDistinct_mirrorAll (keysDistinct_createAt ?_ fun q y hy => ?_) _
        · exact keysDistinct_of_set h rfl (by simp)
        · by_cases e : q = p
          · subst e
            rw [vector_get_eq, Vector.getElem_set_self] at hy
            simp at hy
          · rw [vector_get_eq, Vector.getElem_set_ne _ _ (fun c => e (Fin.ext c.symm))] at hy
            exact fresh q y hy
      · simp only []
        split
        · unfold State.refuseStop
          rw [keysDistinct_iff, State.handDemand_ab]
          exact (keysDistinct_iff s).1 h
        · exact h

theorem keysDistinct_raiseForAxle {s : State} (h : s.KeysDistinct) (a : Alarm) : (s.raiseForAxle a).KeysDistinct := by
  have placed : (if a.level = .note then (s, false) else s.placeOnBoard a).1.KeysDistinct := by
    split
    · exact h
    · exact keysDistinct_placeOnBoard h a
  have raised : (s.raiseAlarm a).KeysDistinct := by
    unfold State.raiseAlarm
    simp only []
    split <;> exact placed
  unfold State.raiseForAxle
  simp only []
  split <;> exact raised

theorem keysDistinct_judged {s : State} (h : s.KeysDistinct) (b : Fin 4) : (judged s b).KeysDistinct :=
  foldl_keeps State.KeysDistinct (fun _ a k => keysDistinct_raiseForAxle k a) _ _ h

/-! ### The board outcomes (R102) -/

/-- The outcome of the final copy is the one of R102, while the keys on the board are distinct. -/
theorem outcomeOf_outcome {s : State} (h : s.KeysDistinct) (train : Word) (e : AlarmEntry) :
    s.ab.Outcome train e (s.ab.outcomeOf train e) := by
  unfold Board.outcomeOf
  refine ⟨fun note => by simp [note], fun boarded => ?_⟩
  rw [if_neg boarded]
  refine ⟨fun p r ⟨hp, ht, hx, hr, hk⟩ => ?_, fun missing => ?_⟩
  · have key : keyOf r = (train, e.axle, e.rail, e.kind) := by rw [← ht, ← hx, ← hr, ← hk]; rfl
    cases found : s.ab.find train e.axle e.rail e.kind with
    | none => exact absurd key (find_none found hp)
    | some q =>
      obtain ⟨t, hq, key'⟩ := find_some found
      obtain rfl := (keysDistinct_iff s).1 h p q r t hp hq (key.trans key'.symm)
      cases e : r.state <;> simp [hp, e]
  · cases found : s.ab.find train e.axle e.rail e.kind with
    | none =>
      rw [Option.bind_none]
      exact ⟨fun _ id => by simp [id], fun id => by simp [id]⟩
    | some q =>
      obtain ⟨t, hq, key⟩ := find_some found
      obtain ⟨ht, hx, hr, hk⟩ : t.train = train ∧ t.axle = e.axle ∧ t.rail = e.rail ∧ t.kind = e.kind := by
        simpa [keyOf] using key
      exact absurd ⟨hq, ht, hx, hr, hk⟩ (missing q t)

end Sys2Proof.Machine.TrainProofs
end

section
/-!
PROOFS. The close computations of a CLOSING buffer (O26), assembled from its bogies, its alarms, its vehicles, its
board outcomes and its report.
-/

namespace Sys2Proof.Machine.TrainProofs

open Sys2Proof

/-- A closing buffer after the vehicle mapping, the *consist-late* marks and the final copy (R44). -/
def copied (x : Buffer) (board : Board) : Buffer := x.mapVehicles.markLate.finalCopy board

/-- The final copy changes the entries, the alarm entries' outcomes, the vehicles and *consist mismatch* alone. -/
theorem copied_frame (x : Buffer) (board : Board) : copied x board = { x with
    axles := (copied x board).axles, vehicles := (copied x board).vehicles, mismatch := (copied x board).mismatch
    alarms := x.alarms.map (fun e => { e with outcome := some (board.outcomeOf x.record.number e) }) } := by
  unfold copied Buffer.finalCopy Buffer.markLate Buffer.mapVehicles
  cases x.consist <;> simp

section
variable (s : State) (b : Fin 4)

/-- The entries of a closing buffer with their bogie indices (R95). -/
def groupedAxles : List AxleEntry :=
  List.zipWith (fun e k => { e with bogie := k }) (s.buffer b).axles
    (groupBogies s.tbu.rate s.site.settings.bogieMax (s.buffer b).axles)

theorem groupedAxles_length : (groupedAxles s b).length = (s.buffer b).axles.length := by
  simp [groupedAxles, groupBogies_length]

theorem groupBuffer_eq : s.groupBuffer b = s.withBuffer b { s.buffer b with axles := groupedAxles s b } :=
  alterBuffer_eq_withBuffer s b _

/-- The bearings are judged on the grouped entries (R83). -/
theorem judged_eq : judged s b =
    (diffAlarmsOf s.site.settings.diffWarn (s.buffer b).record.number (groupedAxles s b)).foldl State.raiseForAxle
      (s.withBuffer b { s.buffer b with axles := groupedAxles s b }) := by
  unfold judged State.checkBearings
  rw [groupBuffer_eq, withBuffer_self, diffAlarms_eq]
  rfl

/-- Of the closing buffer, the judging changes the entries and the alarm list alone. -/
theorem judged_buffer : BufferAlarmed { s.buffer b with axles := groupedAxles s b } ((judged s b).buffer b) := by
  have alarmed := judged_alarmed s b b
  rwa [groupBuffer_eq, withBuffer_self] at alarmed

theorem closeBuffer_copied :
    (s.closeBuffer b).buffer b = { copied ((judged s b).buffer b) (judged s b).ab with state := .held } :=
  closeBuffer_self s b

/-- The close computations change the trains' buffers, the held queue and what the alarms change alone. -/
theorem closeBuffer_only : s.closeBuffer b = { s with
    tt := { s.tt with buffers := (s.closeBuffer b).tt.buffers }
    rpw := { s.rpw with held := (s.closeBuffer b).rpw.held }
    ab := (s.closeBuffer b).ab, sli := (s.closeBuffer b).sli, mem := (s.closeBuffer b).mem
    atu := (s.closeBuffer b).atu } := by
  obtain ⟨⟨_, _, _, _, _, frame, _⟩, rpw⟩ := closeBuffer_frame s b
  generalize s.closeBuffer b = t at frame rpw ⊢
  obtain ⟨⟩ := t
  cases frame
  show State.mk .. = State.mk ..
  congr 1

/-- The report of the buffer joins the held queue by train number (R141, R142). -/
theorem closeBuffer_held : (s.closeBuffer b).rpw.held =
    placedByNumber (((s.closeBuffer b).buffer b).report b) s.rpw.held := by
  have held : (judged s b).rpw = s.rpw := by
    obtain ⟨_, _, _, _, _, e, _⟩ := alarmsOnly_judged s b
    rw [e]
  rw [closeBuffer_copied, closeBuffer_eq]
  show joinHeld ((State.buffer (State.alterBuffer _ b _) b).report b) (judged s b).rpw.held = _
  rw [State.alterBuffer_self, joinHeld_eq_placedByNumber, held]
  rfl

/-- The closed buffer is the judged one but for its state and what the mapping and the final copy write. -/
theorem closeBuffer_stands : (s.closeBuffer b).buffer b = { (judged s b).buffer b with
    state := .held, axles := ((s.closeBuffer b).buffer b).axles, alarms := ((s.closeBuffer b).buffer b).alarms
    vehicles := ((s.closeBuffer b).buffer b).vehicles, mismatch := ((s.closeBuffer b).buffer b).mismatch } := by
  rw [closeBuffer_copied, copied_frame]

theorem closeBuffer_mapped : ((s.closeBuffer b).buffer b).Mapped ((judged s b).buffer b).axles
    (s.buffer b).record.entries := by
  have mapped := mapped_close ((judged s b).buffer b) (judged s b).ab
  rw [(judged_buffer s b).record] at mapped
  rw [closeBuffer_copied]
  exact mapped

/-- Every alarm entry has the board outcome of the final copy (R102). -/
theorem closeBuffer_alarms : ((s.closeBuffer b).buffer b).alarms = ((judged s b).buffer b).alarms.map
    (fun e => { e with outcome := some ((judged s b).ab.outcomeOf (s.buffer b).record.number e) }) := by
  rw [closeBuffer_copied, copied_frame, (judged_buffer s b).record]

/-- After the join the site header is written again (R154); the board, the stop line and the attention are those that
the alarms left. -/
theorem closeBuffer_showJournal : ∃ v : State, s.closeBuffer b = v.showJournal ∧ v.mem = (judged s b).mem ∧
    v.ab = (judged s b).ab ∧ v.sli = (judged s b).sli ∧ v.atu = (judged s b).atu := by
  rw [closeBuffer_eq]
  unfold State.joinBuffer State.alterReports
  refine ⟨_, rfl, ?_⟩
  simp only [State.alterBuffer_mem, State.alterBuffer_ab, State.alterBuffer_sli, State.alterBuffer_atu, and_self]

theorem closeBuffer_board : (s.closeBuffer b).ab = (judged s b).ab ∧ (s.closeBuffer b).sli = (judged s b).sli ∧
    (s.closeBuffer b).atu = (judged s b).atu := by
  obtain ⟨v, e, _, ab, sli, atu⟩ := closeBuffer_showJournal s b
  rw [e, State.showJournal_ab, State.showJournal_sli, State.showJournal_atu]
  exact ⟨ab, sli, atu⟩

/-- The site header shows the journal as it stands after the join (R154). -/
theorem closeBuffer_journal : (s.closeBuffer b).mem.readWord 0 = (s.closeBuffer b).rpw.lastWritten ∧
    (s.closeBuffer b).mem.Shows 8 6 (s.closeBuffer b).rpw.siteItems ∧
    (judged s b).mem.SameOutside (s.closeBuffer b).mem 0 0x20 := by
  obtain ⟨v, e, mem, _⟩ := closeBuffer_showJournal s b
  obtain ⟨last, shows_, outside, _⟩ := showJournal_spec v
  rw [e, ← mem, State.showJournal_rpw]
  exact ⟨last, shows_, outside⟩

end

/-- The report of a buffer carries the header and the sizes of R138 and R140. -/
theorem report_spec (x : Buffer) (b : Fin 4) :
    (x.report b).buffer = some b ∧ (x.report b).header.number = x.record.number ∧
    (x.report b).header.netAxles = x.record.f + x.record.overflow ∧
    (x.record.status ≠ none → x.record.closeTime ≠ none → (x.report b).header.OfTrain x.record x.axles x.alarms) ∧
    (x.report b).header.unlisted = x.unlistedEntries ∧ (x.report b).header.boardFull = x.boardFull ∧
    (x.report b).header.mismatch = x.mismatch ∧ (x.report b).header.consistPresent = x.consist.isSome ∧
    (x.report b).header.vehicleCount = (x.consist.getD []).length ∧
    (x.report b).fullSize = 2 + (x.consist.getD []).length + x.axles.length + (x.alarms.length + 1) / 2 ∧
    (x.report b).summarySize = 2 + (x.consist.getD []).length + x.axles.countP (fun e => e.alarmBits ≠ 0) +
      (x.alarms.length + 1) / 2 := by
  have vehicles : (x.consist.map (·.length)).getD 0 = (x.consist.getD []).length := by cases x.consist <;> rfl
  have alarmed : x.axles.countP (fun e => e.alarmBits ≠ 0) = alarmedAxles x.axles := by
    unfold alarmedAxles
    congr 1
    funext e
    rw [Bool.eq_iff_iff]
    simp
  refine ⟨rfl, rfl, rfl, fun hs hc => headerOf_ofTrain _ _ _ _ _ _ _ hs hc, rfl, rfl, rfl, ?_, vehicles, ?_, ?_⟩
  · show (x.consist.map (·.length)).isSome = _
    simp
  · rw [← vehicles]
    rfl
  · rw [← vehicles, alarmed]
    rfl

/-- Settles O26: the parts of the close computations, in the order of R44. -/
theorem closeComputationsHoldTheBuffer : Obligations.CloseComputationsHoldTheBuffer := by
  intro now b s u x r hr closing only
  have runs : exec (.closeComputations now b) s = .next (if u.closeDue b then u.closeBuffer b else u) := by
    show event now s _ = _
    rw [event_running hr]
  have due : u.closeDue b = !u.se.holds r.number := by
    unfold State.closeDue
    simp only [u, x, r] at closing ⊢
    simp [closing]
  refine ⟨fun held => by simp [runs, due, held], fun unheld => ⟨u.closeBuffer b, by simp [runs, due, unheld], ?_⟩⟩
  obtain ⟨last, shows_, outside⟩ := closeBuffer_journal u b
  have held := closeBuffer_held u b
  have mapped := closeBuffer_mapped u b
  have alarms := closeBuffer_alarms u b
  have stands := closeBuffer_stands u b
  have record : ((u.closeBuffer b).buffer b).record = r := closeBuffer_record u b b
  have spec := report_spec ((u.closeBuffer b).buffer b) b
  rw [record] at spec
  obtain ⟨place, number, netAxles, header⟩ := spec
  obtain ⟨ab, sli, atu⟩ := closeBuffer_board u b
  refine ⟨closeBuffer_only u b, fun a => closeBuffer_others (.inr closing) only, ?_, record, ?_, ?_, ?_, ?_, ?_, last,
    shows_, fun a => State.closeBuffer_outside u b, _, judged u b, _, groupBogies_bogiesOf _ _ _, judged_eq u b, ab, sli,
    atu, outside, stands, mapped, ?_, fun distinct k e he => ?_, held, place, header⟩
  · rw [closeBuffer_state, if_pos rfl]
  · rw [stands]
    exact (judged_buffer u b).consist
  · obtain ⟨length, _⟩ := mapped
    rw [length, (judged_buffer u b).2]
    exact groupedAxles_length u b
  · rw [alarms]
    simp
  · rw [held, placedByNumber_length]
  · exact ⟨_, held ▸ mem_placedByNumber _ _, place, number, netAxles⟩
  · rw [alarms, List.length_map]
  · rw [ab]
    refine ⟨_, ?_, outcomeOf_outcome (keysDistinct_judged distinct b) r.number e⟩
    rw [alarms, List.getElem?_map, he]
    rfl

end Sys2Proof.Machine.TrainProofs
end

section
/-!
PROOFS. The take and the completion of a settlement at one axle entry: what the take fixes and marks (O23), and what the
completion computes, writes and raises (O25).
-/

namespace Sys2Proof.Machine.SettlementProofs

open Sys2Proof Sys2Proof.Machine.TrainProofs

/-! ### The entry of a request (R49, R51) -/

/-- A change of an entry that is there puts the changed entry in its place. -/
theorem modify_eq_set_of_getElem? {α : Type} {l : List α} {i : Nat} {e : α} (h : l[i]? = some e) (f : α → α) :
    l.modify i f = l.set i (f e) := by
  rw [List.modify_eq_set_getElem?, h]
  rfl

theorem alterEntry_eq_withBuffer {s : State} {train : Word} {axle : Nat} {b : Fin 4} {e : AxleEntry}
    (hb : s.bufferOf train = some b) (he : (s.buffer b).axles[axle]? = some e) (f : AxleEntry → AxleEntry) :
    s.alterEntry train axle f =
      s.withBuffer b { s.buffer b with axles := (s.buffer b).axles.set axle (f e) } := by
  unfold State.alterEntry
  rw [hb]
  show s.alterBuffer b (·.alterAxle axle f) = _
  rw [alterBuffer_eq_withBuffer, Buffer.alterAxle, modify_eq_set_of_getElem? he]

/-! ### The take (R49, R92) -/

/-- The oldest request is taken off the queue, its settlement is in flight and its entry is marked (R49). -/
theorem takeNext_eq {s : State} {q : Request} {rest : List Request} (h : s.se.queue = q :: rest) :
    s.takeNext = { s.alterEntry q.train q.axle (·.taken q.run) with
      se := { s.se with queue := rest, inFlight := some (s.settlementOf q) } } := by
  have taken : s.takeNext = State.take { s with se := { s.se with queue := rest } } q := by
    unfold State.takeNext
    rw [h]
  have found : State.bufferOf { s with se := { s.se with queue := rest } } q.train = s.bufferOf q.train := rfl
  rw [taken]
  unfold State.take State.alterEntry
  rw [found]
  cases s.bufferOf q.train <;> rfl

theorem exec_settlementTake {s : State} {now : Cycle} (hr : s.Running) (idle : (s.advance now).se.inFlight = none) :
    exec (.settlementTake now) s = .next (s.advance now).takeNext := by
  show event now s _ = _
  rw [event_running hr, idle]
  rfl

/-- The limit in force is that under the consist of the train's buffer (R92). -/
theorem settlementOf_limit {s : State} {q : Request} {b : Fin 4} (hb : s.bufferOf q.train = some b) :
    ((s.settlementOf q).limit, (s.settlementOf q).source) =
      limitUnder s.site.settings (s.buffer b).consist q.axle := by
  unfold State.settlementOf
  rw [hb]
  rfl

/-- Settles O23: the inputs are those of `State.settlementOf_fixes`, and the take changes one entry. -/
theorem settlementFixesItsInputs : Obligations.SettlementFixesItsInputs := by
  intro now q rest b e s u hr idle queued hb he
  have runs := exec_settlementTake hr idle
  have limit := settlementOf_limit hb
  have fixes := State.settlementOf_fixes u q
  rw [hb] at fixes
  have inputs := fixes
  obtain ⟨request, rate, settings, waiting, strain, scanner, _⟩ := inputs
  rw [takeNext_eq queued, alterEntry_eq_withBuffer hb he] at runs
  refine ⟨_, u.settlementOf q, runs, rfl, request, rate, settings, waiting, strain, scanner, ?_, ?_, fixes, ?_, ?_⟩
  · intro v covered
    rw [limitUnder, covered] at limit
    exact Prod.mk.inj limit
  · intro uncovered
    rw [limitUnder, uncovered] at limit
    exact Prod.mk.inj limit
  · exact fun a other => withBuffer_other u other _
  · exact withBuffer_self u b _

/-! ### The alarms of a settlement (R65, R78) -/

/-- An alarm leaves where the trains are found. -/
theorem bufferOf_raiseForAxle (s : State) (a : Alarm) (train : Word) :
    (s.raiseForAxle a).bufferOf train = s.bufferOf train :=
  State.bufferOf_congr (fun c => (raiseForAxle_alarmed s a c).state)
    (fun c => congrArg _ (raiseForAxle_alarmed s a c).record) train

/-- An alarm sets its kind's bit of its axle's entry (R65). -/
theorem raiseForAxle_axles {s : State} {a : Alarm} {b : Fin 4} (h : s.bufferOf a.train = some b) :
    ((s.raiseForAxle a).buffer b).axles = (s.buffer b).axles.modify a.axle
      (fun e => { e with alarmBits := e.alarmBits ||| a.kind.bit }) := by
  have found : (s.raiseAlarm a).bufferOf a.train = some b := by
    rw [State.bufferOf_congr (fun c => (raiseAlarm_alarmed s a c).state)
      (fun c => congrArg _ (raiseAlarm_alarmed s a c).record), h]
  unfold State.raiseForAxle
  simp only [found]
  rw [State.alterBuffer_self, Buffer.alterAxle, State.raiseAlarm_buffer]

/-- Alarms of one axle set their kinds' bits of its entry, and change no other entry (R65). -/
theorem raiseAll_axles {as : List Alarm} {s : State} {b : Fin 4} {i : Nat} {e : AxleEntry}
    (of_axle : ∀ a ∈ as, s.bufferOf a.train = some b ∧ a.axle = i) (he : (s.buffer b).axles[i]? = some e) :
    ((as.foldl State.raiseForAxle s).buffer b).axles = (s.buffer b).axles.set i
      { e with alarmBits := as.foldl (fun bits a => bits ||| a.kind.bit) e.alarmBits } := by
  induction as generalizing s e with
  | nil =>
    obtain ⟨there, rfl⟩ := List.getElem?_eq_some_iff.1 he
    exact (List.set_getElem_self there).symm
  | cons a as ih =>
    obtain ⟨hb, rfl⟩ := of_axle a List.mem_cons_self
    have first := raiseForAxle_axles hb
    rw [modify_eq_set_of_getElem? he] at first
    have there : ((s.raiseForAxle a).buffer b).axles[a.axle]? =
        some { e with alarmBits := e.alarmBits ||| a.kind.bit } := by
      rw [first, List.getElem?_set_self (List.getElem?_eq_some_iff.1 he).1]
    rw [List.foldl_cons, ih (fun a' m => ?_) there, first, List.set_set]
    · rfl
    · rw [bufferOf_raiseForAxle]
      exact of_axle a' (List.mem_cons_of_mem _ m)

/-- A settlement raises alarms of its own axle alone. -/
theorem result_alarms_of_axle {f : Settlement} {x : Extracted} {a : Alarm} (h : a ∈ (f.result x).alarms) :
    a.train = f.request.train ∧ a.axle = f.request.axle := by
  have raised {v : Option Verdict} {k : AlarmKind} {r : Rail}
      (m : a ∈ (v.map (fun v => v.alarm f.request k r)).toList) :
      a.train = f.request.train ∧ a.axle = f.request.axle := by
    obtain ⟨w, _, rfl⟩ := Option.map_eq_some_iff.1 (Option.mem_toList.1 m)
    exact ⟨rfl, rfl⟩
  unfold Settlement.result at h
  simp only [List.mem_append, or_assoc] at h
  rcases h with m | m | m | m | m | m | m | m <;> exact raised m

/-! ### The entry at a completion (R51, R71, R80) -/

theorem weighed_iff (l : LoadResult) : l.weighed = true ↔ l.axleLoad.isSome = true ∧ l.outOfRange = false := by
  simp [LoadResult.weighed]

theorem not_weighed_iff (l : LoadResult) : l.weighed = false ↔ l.axleLoad = none ∨ l.outOfRange = true := by
  simp [LoadResult.weighed, Decidable.imp_iff_not_or]

/-- A valid stored load result stands (R71). -/
theorem settle_load_kept (e : AxleEntry) (run : Nat) (r : SettleResult) {l : LoadResult} (h : e.load = some l)
    (w : l.weighed = true) : (e.settle run r).load = some l := by
  simp [AxleEntry.settle, h, w]

/-- Without a valid stored load result the run's is stored (R71). -/
theorem settle_load_stored (e : AxleEntry) (run : Nat) (r : SettleResult)
    (h : ∀ l, e.load = some l → l.weighed = false) : (e.settle run r).load = some r.load := by
  cases k : e.load with
  | none => simp [AxleEntry.settle, k]
  | some l => simp [AxleEntry.settle, k, h l k]

section
variable (run : Nat)

/-- A slot of the temperature results after a completion, from the slot before it (R80). -/
theorem tempsAfter_slot (t : Option TempResults) (rises : Vector Rise 4) (i : Fin 4) :
    (tempsAfter t rises run).slots.get i =
      (((t.map TempResults.slots).getD (Vector.replicate 4 .empty)).get i).after (rises.get i) run :=
  tabulate_get _ i

/-- A valid rise is stored with the run's number (R80). -/
theorem tempsAfter_valid {t : Option TempResults} {rises : Vector Rise 4} {i : Fin 4} {v : Nat}
    (h : rises.get i = .valid v) : (tempsAfter t rises run).slots.get i = .valid v run := by
  rw [tempsAfter_slot, h]
  rfl

/-- An invalid rise leaves a valid slot (R80). -/
theorem tempsAfter_kept {old : TempResults} {rises : Vector Rise 4} {i : Fin 4} {k : RiseReason} {v n : Nat}
    (h : rises.get i = .invalid k) (stored : old.slots.get i = .valid v n) :
    (tempsAfter (some old) rises run).slots.get i = .valid v n := by
  rw [tempsAfter_slot, h]
  simp [stored, RiseSlot.after]

/-- An invalid rise is stored with its reason where no valid one stands (R80). -/
theorem tempsAfter_invalid {t : Option TempResults} {rises : Vector Rise 4} {i : Fin 4} {k : RiseReason}
    (h : rises.get i = .invalid k) (none_valid : ∀ old, t = some old → ∀ v n : Nat, old.slots.get i ≠ .valid v n) :
    (tempsAfter t rises run).slots.get i = .invalid k run := by
  rw [tempsAfter_slot, h]
  cases t with
  | none => simp [vector_get_eq, RiseSlot.after]
  | some old =>
    have unheld := none_valid old rfl
    simp only [Option.map_some, Option.getD_some]
    cases slot : old.slots.get i with
    | valid v n => exact absurd slot (unheld v n)
    | empty => rfl
    | invalid _ _ => rfl

end

/-! ### The completion (R51) -/

/-- The machine with the request's entry settled, before an alarm is raised (R51). -/
def written (s : State) (q : Request) (r : SettleResult) : State := s.alterEntry q.train q.axle (·.settle q.run r)

/-- The machine with the entry settled and the alarms raised, before the settlement leaves the SE (R51, R65). -/
def raised (s : State) (q : Request) (r : SettleResult) : State := r.alarms.foldl State.raiseForAxle (written s q r)

theorem alarmsOnly_raised (s : State) (q : Request) (r : SettleResult) : AlarmsOnly s (raised s q r) := by
  have entry : AlarmsOnly s (written s q r) := by
    unfold written State.alterEntry
    split
    · exact .alterBuffer s _ _
    · exact .refl s
  exact entry.trans (alarmsOnly_raiseAll _ _)

/-- With the writes and the alarms done, the settlement leaves the SE and the speed is the live view's last (R51). -/
theorem complete_eq (s : State) (f : Settlement) (r : SettleResult) : s.complete f r =
    { raised s f.request r with
      se := { s.se with inFlight := none }, lvu := { s.lvu with lastSpeed := r.speed } } := by
  obtain ⟨_, _, _, _, _, same, _⟩ := alarmsOnly_raised s f.request r
  show { raised s f.request r with
    se := { (raised s f.request r).se with inFlight := none }
    lvu := { (raised s f.request r).lvu with lastSpeed := r.speed } } = _
  rw [same]

theorem exec_settlementComplete {s : State} {now : Cycle} {f : Settlement} {x : Extracted} (hr : s.Running)
    (flight : (s.advance now).se.inFlight = some f) (extracted : f.extracted = some x) :
    exec (.settlementComplete now) s = .next ((s.advance now).complete f (f.result x)) := by
  show execSettlementComplete now s = _
  unfold execSettlementComplete
  rw [event_running hr]
  simp only [flight, extracted]

/-- What a completion leaves alone. -/
theorem complete_frame (s : State) (f : Settlement) (r : SettleResult) : s.complete f r = { s with
    se := { s.se with inFlight := none }, lvu := { s.lvu with lastSpeed := r.speed }
    tt := { s.tt with buffers := (s.complete f r).tt.buffers }
    ab := (s.complete f r).ab, sli := (s.complete f r).sli, mem := (s.complete f r).mem
    atu := (s.complete f r).atu } := by
  obtain ⟨_, _, _, _, _, same, _⟩ := alarmsOnly_raised s f.request r
  rw [complete_eq, same]

/-- An entry after a completion: settled, with the bits of the alarms that its result raises. -/
def settled (e : AxleEntry) (run : Nat) (r : SettleResult) : AxleEntry :=
  { e.settle run r with alarmBits := r.alarms.foldl (fun bits a => bits ||| a.kind.bit) e.alarmBits }

section
variable {s : State} {q : Request} {r : SettleResult} {b : Fin 4} {e : AxleEntry} (hb : s.bufferOf q.train = some b)
  (he : (s.buffer b).axles[q.axle]? = some e) (own : ∀ a ∈ r.alarms, a.train = q.train ∧ a.axle = q.axle)
include hb he

theorem written_eq : written s q r = s.withBuffer b { s.buffer b with
    axles := (s.buffer b).axles.set q.axle (e.settle q.run r) } :=
  alterEntry_eq_withBuffer hb he _

theorem written_self : (written s q r).buffer b =
    { s.buffer b with axles := (s.buffer b).axles.set q.axle (e.settle q.run r) } := by
  rw [written_eq hb he, withBuffer_self]

theorem written_other {a : Fin 4} (h : a ≠ b) : (written s q r).buffer a = s.buffer a := by
  rw [written_eq hb he, withBuffer_other s h]

/-- A settled entry leaves where the trains are found. -/
theorem bufferOf_written (train : Word) : (written s q r).bufferOf train = s.bufferOf train := by
  refine State.bufferOf_congr (fun a => ?_) (fun a => ?_) train <;> by_cases h : a = b
  · rw [h, written_self hb he]
  · rw [written_other hb he h]
  · rw [h, written_self hb he]
  · rw [written_other hb he h]

/-- Of its train's buffer a completion changes the alarm list and the axle entries alone. -/
theorem raised_alarmed : BufferAlarmed { s.buffer b with axles := (s.buffer b).axles.set q.axle (e.settle q.run r) }
    ((raised s q r).buffer b) := by
  have alarmed := raiseAll_alarmed r.alarms (written s q r) b
  rwa [written_self hb he] at alarmed

include own

/-- The alarms of a completion are of the train whose entry is settled. -/
theorem raised_alarms_of_axle : ∀ a ∈ r.alarms, (written s q r).bufferOf a.train = some b ∧ a.axle = q.axle := by
  intro a m
  obtain ⟨train, axle⟩ := own a m
  exact ⟨by rw [bufferOf_written hb he, train, hb], axle⟩

/-- A completion changes no buffer but its train's. -/
theorem raised_other {a : Fin 4} (h : a ≠ b) : (raised s q r).buffer a = s.buffer a := by
  rw [raised, raiseAll_other (fun c m => (raised_alarms_of_axle hb he own c m).1) h, written_other hb he h]

/-- Of the axle entries a completion changes the request's alone. -/
theorem raised_axles : ((raised s q r).buffer b).axles = (s.buffer b).axles.set q.axle (settled e q.run r) := by
  have there : ((written s q r).buffer b).axles[q.axle]? = some (e.settle q.run r) := by
    rw [written_self hb he]
    exact List.getElem?_set_self (List.getElem?_eq_some_iff.1 he).1
  rw [raised, raiseAll_axles (raised_alarms_of_axle hb he own) there, written_self hb he, List.set_set]
  rfl

end

/-- Settles O25: the result is that of `Settlement.result_computes`, the entry is `settled`, and the alarms are those
raised after it is written. -/
theorem settlementWritesItsResults : Obligations.SettlementWritesItsResults := by
  intro now f x b e s u q hr flight extracted hb he
  let r := f.result x
  have runs := exec_settlementComplete hr flight extracted
  have own : ∀ a ∈ r.alarms, a.train = q.train ∧ a.axle = q.axle := fun a => result_alarms_of_axle
  have alarmed := raised_alarmed (r := r) hb he
  have axles := raised_axles hb he own
  have buffer (a : Fin 4) : (u.complete f r).buffer a = (raised u q r).buffer a := by
    rw [complete_eq]
    rfl
  refine ⟨r, u.complete f r, settled e q.run r, f.result_computes x, runs, complete_frame u f r, ?_, ?_, ?_, ?_, ?_,
    ?_, rfl, rfl, rfl, ?_, ?_, ?_, ⟨_, rfl, rfl, ?_⟩, fun h => if_pos h, fun h => if_neg h, rfl, ?_⟩
  · exact fun a other => (buffer a).trans (raised_other hb he own other)
  · rw [buffer, alarmed.record]
  · rw [buffer, alarmed.state]
  · rw [buffer, axles, List.length_set]
  · intro i other
    rw [buffer, axles, List.getElem?_set_ne (Ne.symm other)]
  · rw [buffer, axles, List.getElem?_set_self (List.getElem?_eq_some_iff.1 he).1]
  · exact fun l stored valid inRange => settle_load_kept e q.run r stored ((weighed_iff l).2 ⟨valid, inRange⟩)
  · exact fun unstored => settle_load_stored e q.run r (by simp [unstored])
  · intro l stored invalid
    refine settle_load_stored e q.run r fun l' stored' => ?_
    obtain rfl : l = l' := Option.some.inj (stored.symm.trans stored')
    exact (not_weighed_iff l).2 invalid
  · refine fun i => ⟨fun v rise => tempsAfter_valid q.run rise, fun k rise => ⟨fun old stored v n held => ?_, ?_⟩⟩
    · rw [stored]
      exact tempsAfter_kept q.run rise held
    · exact tempsAfter_invalid q.run rise
  · rw [buffer, complete_eq]
    intro v w
    have same : raised u q r = w := by
      rw [raised, written_eq hb he]
      rfl
    rw [same]
    exact ⟨rfl, rfl, rfl, rfl, rfl⟩

end Sys2Proof.Machine.SettlementProofs
end

section
/-!
PROOFS. The orders of the Consist Unit (O42): what ATTACH_CONSIST and DROP_CONSIST come to, once for each way their
checks can end.
-/

namespace Sys2Proof.Machine.ConsistProofs

open Sys2Proof

/-! ### Arguments and answers (R195) -/

theorem targetOf_eq_none {w : Word} (h1 : w ≠ 1) (h2 : w ≠ 2) : targetOf w = none := by
  unfold targetOf
  split
  · next h => exact absurd (BitVec.eq_of_toNat_eq h) h1
  · next h => exact absurd (BitVec.eq_of_toNat_eq h) h2
  · rfl

theorem targetOf_listed {w : Word} (h : w = 1 ∨ w = 2) : ∃ target, targetOf w = some target := by
  rcases h with h | h <;> rw [h] <;> exact ⟨_, rfl⟩

theorem countWord_of_word (w : Word) : countWord w.toNat = w := by
  have : min w.toNat 4294967295 = w.toNat := by omega
  rw [countWord, this, BitVec.ofNat_toNat, BitVec.setWidth_eq]

/-- A command that ends with the completion of the running order has answered it. -/
theorem answered {c : Instr} {s v : State} {o : RunningOrder} {oc : OrderOutcome} {r1 r2 : Word}
    (h : exec c s = .next (v.finishRunning o.slot oc r1 r2)) :
    ∃ t : State, exec c s = .next t ∧ v.AnsweredFrom t o oc r1 r2 :=
  ⟨_, h, v.finishRunning_spec o oc r1 r2⟩

theorem trainOpen_of_bufferIn {s : State} {b : Fin 4} (h : s.bufferIn .opened = some b) : s.trainOpen = true := by
  simp [State.trainOpen, h]

/-! ### The records of the consist area (R86, R87) -/

section
variable {m : Memory} {first count : Nat}

/-- The first record that fails ends the reading, with its position. -/
theorem readVehicles_error {k : Nat} (hk : k < count) (bad : m.VehicleFails (first + k))
    (before : ∀ j : Nat, j < k → ¬m.VehicleFails (first + j)) : readVehicles m first 1 count = .error (k + 1) := by
  obtain ⟨i, _, fails, passed, error⟩ | ⟨good, _⟩ := readVehicles_cases m first count 1 (by omega)
  · obtain h | rfl | h := lt_trichotomy i k
    · exact absurd fails (before i h)
    · rw [error, Nat.add_comm]
    · exact absurd bad (passed k h)
  · exact absurd bad (good k hk)

/-- Records that all pass give the vehicles that they hold. -/
theorem readVehicles_ok (good : ∀ k : Nat, k < count → ¬m.VehicleFails (first + k)) :
    ∃ vs : List Vehicle, readVehicles m first 1 count = .ok vs ∧ vs.length = count ∧
      ∀ (k : Nat) (v : Vehicle), vs[k]? = some v → v.WrittenAt m (first + k) := by
  obtain ⟨k, hk, bad, _⟩ | ⟨_, read⟩ := readVehicles_cases m first count 1 (by omega)
  · exact absurd bad (good k hk)
  · exact read

end

/-! ### ATTACH_CONSIST (R87 to R89) -/

theorem exec_attachConsist {s : State} {now : Cycle} {o : RunningOrder} (hr : s.Running)
    (runs : (s.advance now).RunsOrder .attachConsist o) :
    exec (.attachConsist now) s = .next ((s.advance now).attach o) := by
  show event now s (fun s => s.completing .attachConsist s.attach) = _
  rw [event_running hr, State.completing_of_runs runs]

section
variable {s : State} {o : RunningOrder}

theorem attach_halt (h : s.site.mode = .halt) : s.attach o = s.finishRunning o.slot .notArmed 0 0 := by
  simp [State.attach, h]

theorem attach_badArgument (h : s.site.mode = .watch)
    (bad : (o.arg1 ≠ 1 ∧ o.arg1 ≠ 2) ∨ o.arg3.toNat = 0 ∨ 256 < o.arg3.toNat ∨
      512 < o.arg2.toNat + o.arg3.toNat) :
    s.attach o = s.finishRunning o.slot .badArgument 0 0 := by
  simp only [State.attach, h, reduceCtorEq, if_false]
  split
  · rfl
  · next target known =>
    have listed : ¬(o.arg1 ≠ 1 ∧ o.arg1 ≠ 2) := fun ⟨h1, h2⟩ => by
      cases (targetOf_eq_none h1 h2).symm.trans known
    have range := bad.resolve_left listed
    by_cases size : o.arg3.toNat < 1 ∨ 256 < o.arg3.toNat
    · rw [if_pos size]
    · rw [if_neg size, if_pos (by omega)]

/-- With the arguments in range and the site in WATCH, the vehicle records decide (R87). -/
theorem attach_reads {target : Target} (h : s.site.mode = .watch) (known : targetOf o.arg1 = some target)
    (least : 1 ≤ o.arg3.toNat) (most : o.arg3.toNat ≤ 256) (inside : o.arg2.toNat + o.arg3.toNat ≤ 512) :
    (∀ pos : Nat, readVehicles s.mem o.arg2.toNat 1 o.arg3.toNat = .error pos →
      s.attach o = s.finishRunning o.slot .badArgument (countWord pos) 0) ∧
    (∀ vs : List Vehicle, readVehicles s.mem o.arg2.toNat 1 o.arg3.toNat = .ok vs →
      s.attach o = s.attachTo o target vs) := by
  have size : ¬(o.arg3.toNat < 1 ∨ 256 < o.arg3.toNat) := by omega
  have fits : ¬512 < o.arg2.toNat + o.arg3.toNat := by omega
  simp only [State.attach, h, known, size, fits, reduceCtorEq, if_false]
  exact ⟨fun pos e => by rw [e], fun vs e => by rw [e]⟩

/-- The answer of a list that is taken, from what its place held before (R87 to R89). -/
theorem answerAttach_eq {vs : List Vehicle} (size : vs.length = o.arg3.toNat) (held : Option (List Vehicle)) :
    s.answerAttach o held.isSome vs = s.finishRunning o.slot (if held = none then .done else .replaced) o.arg3
      (BitVec.ofNat 32 (min (vs.map (·.axles)).sum 4294967295)) := by
  rw [State.answerAttach, size, countWord_of_word]
  cases held <;> rfl

theorem attachTo_next (vs : List Vehicle) :
    s.attachTo o .next vs = State.answerAttach { s with next := some vs } o s.next.isSome vs := rfl

theorem attachTo_noTrain (h : s.trainOpen = false) (vs : List Vehicle) :
    s.attachTo o .opened vs = s.finishRunning o.slot .noTrain 0 0 := by
  simp [State.attachTo, h]

theorem attachTo_noBuffer (h : s.trainOpen = true) (full : s.bufferIn .opened = none) (vs : List Vehicle) :
    s.attachTo o .opened vs = s.finishRunning o.slot .noBuffer 0 0 := by
  simp [State.attachTo, h, full]

theorem attachTo_buffer {b : Fin 4} (h : s.bufferIn .opened = some b) (vs : List Vehicle) :
    s.attachTo o .opened vs = (s.alterBuffer b (fun x => { x with consist := some vs })).answerAttach o
      (s.buffer b).consist.isSome vs := by
  simp [State.attachTo, trainOpen_of_bufferIn h, h]

end

/-! ### DROP_CONSIST (R90) -/

theorem exec_dropConsist {s : State} {now : Cycle} {o : RunningOrder} (hr : s.Running)
    (runs : (s.advance now).RunsOrder .dropConsist o) :
    exec (.dropConsist now) s = .next ((s.advance now).drop o) := by
  show event now s (fun s => s.completing .dropConsist s.drop) = _
  rw [event_running hr, State.completing_of_runs runs]

section
variable {s : State} {o : RunningOrder}

theorem drop_badArgument (h1 : o.arg1 ≠ 1) (h2 : o.arg1 ≠ 2) :
    s.drop o = s.finishRunning o.slot .badArgument 0 0 := by
  rw [State.drop, targetOf_eq_none h1 h2]

theorem drop_next (h : o.arg1 = 1) : s.drop o = State.finishRunning { s with next := none } o.slot .done 0 0 := by
  rw [State.drop, h]
  rfl

theorem drop_noTrain (h : o.arg1 = 2) (shut : s.trainOpen = false) :
    s.drop o = s.finishRunning o.slot .noTrain 0 0 := by
  simp [State.drop, h, targetOf, shut]

theorem drop_noBuffer (h : o.arg1 = 2) (opened : s.trainOpen = true) (full : s.bufferIn .opened = none) :
    s.drop o = s.finishRunning o.slot .noBuffer 0 0 := by
  simp [State.drop, h, targetOf, opened, full]

theorem drop_buffer {b : Fin 4} (h : o.arg1 = 2) (opened : s.bufferIn .opened = some b) :
    s.drop o = (s.alterBuffer b (fun x => { x with consist := none })).finishRunning o.slot .done 0 0 := by
  simp [State.drop, h, targetOf, trainOpen_of_bufferIn opened, opened]

end

/-- Settles O42: an order's answer is that of the one way in which its checks end. -/
theorem consistOrdersCopyAndDrop : Obligations.ConsistOrdersCopyAndDrop := by
  intro now o s hr u first count attached refused withConsist
  refine ⟨fun runs => ?_, fun runs => ?_⟩
  · have becomes {v : State} (h : u.attach o = v) : exec (.attachConsist now) s = .next v :=
      h ▸ exec_attachConsist hr runs
    refine ⟨fun halt => answered (becomes (attach_halt halt)),
      fun watch bad => answered (becomes (attach_badArgument watch bad)), fun watch listed least most inside => ?_⟩
    refine ⟨fun k hk bad before => ?_, fun good => ?_⟩
    · obtain ⟨target, known⟩ := targetOf_listed listed
      have position : countWord (k + 1) = BitVec.ofNat 32 (k + 1) := by rw [countWord, min_eq_left (by omega)]
      have refuses := (attach_reads watch known least most inside).1 _ (readVehicles_error hk bad before)
      exact answered (becomes (position ▸ refuses))
    · obtain ⟨vs, ok, size, written⟩ := readVehicles_ok good
      have taken {target : Target} (known : targetOf o.arg1 = some target) : u.attach o = u.attachTo o target vs :=
        (attach_reads watch known least most inside).2 vs ok
      refine ⟨vs, size, written, fun next => ?_, fun opened shut => ?_, fun opened train full => ?_,
        fun opened b found => ?_⟩
      · exact answered (becomes ((taken (next ▸ rfl)).trans
          ((attachTo_next vs).trans (answerAttach_eq size u.next))))
      · exact answered (becomes ((taken (opened ▸ rfl)).trans (attachTo_noTrain shut vs)))
      · exact answered (becomes ((taken (opened ▸ rfl)).trans (attachTo_noBuffer train full vs)))
      · exact answered (becomes ((taken (opened ▸ rfl)).trans
          ((attachTo_buffer found vs).trans (answerAttach_eq size (u.buffer b).consist))))
  · have becomes {v : State} (h : u.drop o = v) : exec (.dropConsist now) s = .next v :=
      h ▸ exec_dropConsist hr runs
    exact ⟨fun h1 h2 => answered (becomes (drop_badArgument h1 h2)), fun next => answered (becomes (drop_next next)),
      fun opened shut => answered (becomes (drop_noTrain opened shut)),
      fun opened train full => answered (becomes (drop_noBuffer opened train full)),
      fun opened b found => answered (becomes (drop_buffer opened found))⟩

end Sys2Proof.Machine.ConsistProofs
end

section
/-!
PROOFS. The stop line (O30 to O32): what a write of its words shows, what a change of the line and a timer of its own
come to, and the two modes' tables, each read off once.
-/

namespace Sys2Proof.Machine.StopLineProofs

open Sys2Proof

/-! ### The words of the stop line in the site header (R135, R194) -/

theorem pack_toNat {fields : List (Nat × Nat × Nat)}
    (h : (fields.map (fun x => bitField x.1 x.2.1 x.2.2)).sum < 2 ^ 32) :
    (pack fields).toNat = (fields.map (fun x => bitField x.1 x.2.1 x.2.2)).sum := by
  rw [pack, BitVec.toNat_ofNat, Nat.mod_eq_of_lt h]

/-- What `Memory.Shows` asks of the word at index `k`: the sum of its items, each in its field (R193). -/
def wordSum (items : List Item) (k : Nat) : Nat :=
  ((items.filter (fun i => i.1 = k)).map (fun i => min i.2.2.2 (2 ^ i.2.2.1 - 1) * 2 ^ i.2.1)).sum

theorem stopWord_toNat (l : StopLine) (b : Board) :
    (stopWord l b.demand).toNat = wordSum (stopItems 0 l b) 0 := by
  unfold stopWord
  rw [pack_toNat]
  · rfl
  · simp only [List.map_cons, List.map_nil, List.sum_cons, List.sum_nil, bitField]
    omega

theorem countsWord_toNat (l : StopLine) (b : Board) :
    (countsWord l b).toNat = wordSum (stopItems 0 l b) 1 := by
  unfold countsWord
  rw [pack_toNat]
  · rfl
  · simp only [List.map_cons, List.map_nil, List.sum_cons, List.sum_nil, bitField]
    omega

theorem showStopLine_shows (s : State) : s.showStopLine.mem.Shows 0x28 2 (stopItems 0 s.sli s.ab) := by
  intro k hk
  have word : s.showStopLine.mem.readWord (0x28 + 4 * k) = [stopWord s.sli s.ab.demand, countsWord s.sli s.ab][k] :=
    State.put_readWord_inside s (headerBase + 0x28) [stopWord s.sli s.ab.demand, countsWord s.sli s.ab] k hk
  rw [word]
  match k, hk with
  | 0, _ => exact stopWord_toNat s.sli s.ab
  | 1, _ => exact countsWord_toNat s.sli s.ab

/-! ### A change of the line -/

/-- From `u` to `t` the stop line becomes `l`, shown in the site header, and the causes of `causes` are pending. -/
def LineBecomes (u t : State) (l : StopLine) (causes : BitVec 8) : Prop :=
  t = { u with sli := l, mem := t.mem
               atu := { u.atu with pending := u.atu.pending ||| causes } } ∧
    u.mem.SameOutside t.mem 0x28 8 ∧ t.mem.Shows 0x28 2 (stopItems 0 t.sli t.ab)

section
variable {u : State} {f : StopLine → StopLine} {l : StopLine}

theorem alterLine_shown (u : State) (f : StopLine → StopLine) :
    u.mem.SameOutside (u.alterLine f).mem 0x28 8 ∧
      (u.alterLine f).mem.Shows 0x28 2 (stopItems 0 (u.alterLine f).sli (u.alterLine f).ab) :=
  ⟨fun _ ha => u.alterLine_outside f ha, showStopLine_shows _⟩

theorem alterLine_becomes (h : f u.sli = l) : LineBecomes u (u.alterLine f) l 0 := by
  subst h
  refine ⟨?_, alterLine_shown u f⟩
  have unraised : u.atu.pending ||| 0 = u.atu.pending := BitVec.or_zero
  rw [unraised]
  rfl

theorem alterLine_raise_becomes (h : f u.sli = l) :
    LineBecomes u ((u.alterLine f).raise .stopFault) l 0x04#8 := by
  subst h
  exact ⟨rfl, alterLine_shown u f⟩

end

/-! ### The timers of the line (R123) -/

section
variable {now start : Cycle} {s : State}

/-- A timer's command has the effect of its running out once the timer has run its cycles, and none before. -/
theorem event_timer {n : Nat} {due : State → Bool} {effect : State → State} (hr : s.Running)
    (h : due (s.advance now) = (s.advance now).ran start n) :
    (n ≤ ((s.advance now).tbu.cycle - start).toNat →
      event now s (fun s => if due s then effect s else s) = .next (effect (s.advance now))) ∧
    (((s.advance now).tbu.cycle - start).toNat < n →
      event now s (fun s => if due s then effect s else s) = .next (s.advance now)) := by
  rw [event_running hr, h]
  exact ⟨fun past => by rw [if_pos ((State.ran_iff ..).2 past)],
    fun early => by rw [(State.ran_eq_false_iff ..).2 early, if_neg Bool.false_ne_true]⟩

theorem exec_ackTimeout (hr : s.Running) (h : (s.advance now).sli.ackTimer = some start) :
    (10000 * (s.advance now).site.settings.ackTimeout ≤ ((s.advance now).tbu.cycle - start).toNat →
      exec (.ackTimeout now) s = .next (s.advance now).ackRunsOut) ∧
    (((s.advance now).tbu.cycle - start).toNat < 10000 * (s.advance now).site.settings.ackTimeout →
      exec (.ackTimeout now) s = .next (s.advance now)) :=
  event_timer hr (by rw [State.ackDue, h]; rfl)

theorem exec_pulseTimerExpiry (hr : s.Running) (h : (s.advance now).sli.pulseTimer = some start) :
    (10000 * (s.advance now).site.settings.pulseWidth ≤ ((s.advance now).tbu.cycle - start).toNat →
      exec (.pulseTimerExpiry now) s = .next (s.advance now).pulseRunsOut) ∧
    (((s.advance now).tbu.cycle - start).toNat < 10000 * (s.advance now).site.settings.pulseWidth →
      exec (.pulseTimerExpiry now) s = .next (s.advance now)) :=
  event_timer hr (by rw [State.pulseDue, h]; rfl)

theorem exec_listenTimerExpiry (hr : s.Running) (h : (s.advance now).sli.listenTimer = some start) :
    (10000 * (s.advance now).site.settings.ackTimeout ≤ ((s.advance now).tbu.cycle - start).toNat →
      exec (.listenTimerExpiry now) s = .next (s.advance now).listenRunsOut) ∧
    (((s.advance now).tbu.cycle - start).toNat < 10000 * (s.advance now).site.settings.ackTimeout →
      exec (.listenTimerExpiry now) s = .next (s.advance now)) :=
  event_timer hr (by rw [State.listenDue, h]; rfl)

end

/-! ### The ack edges (R122, R125, R126, R129) -/

/-- What an accepted ack level makes of the line, by its mode. -/
def takesEdge (level : Bool) (now : Cycle) (l : StopLine) : StopLine :=
  match l.mode with
  | .level => l.levelEdge level now
  | .pulse => l.pulseEdge level now

theorem exec_ackEdge {now since : Cycle} {level : Bool} {s : State} (hr : s.Running)
    (changed : level ≠ (s.advance now).sli.ackLevel) (stood : (s.advance now).StoodFor since 10000) :
    exec (.ackEdge now level since) s =
      .next ((s.advance now).alterLine (takesEdge level (s.advance now).tbu.cycle)) := by
  show event now s _ = _
  rw [event_running hr, if_pos ⟨changed, (State.levelHeld_iff ..).2 stood⟩]
  rfl

section
variable {l : StopLine} {now : Cycle}

theorem takesEdge_level (h : l.mode = .level) (level : Bool) : takesEdge level now l = l.levelEdge level now := by
  rw [takesEdge, h]

theorem takesEdge_pulse (h : l.mode = .pulse) (level : Bool) : takesEdge level now l = l.pulseEdge level now := by
  rw [takesEdge, h]

/-- LEVEL supervision of an edge, field by field (R125, R126). -/
theorem levelEdge_eq (l : StopLine) (level : Bool) (now : Cycle) : l.levelEdge level now = { l with
    ackLevel := level
    fault := l.fault && decide (level ≠ l.demand)
    ackTimer := if level = l.demand then none
      else if l.fault then l.ackTimer
      else some (l.ackTimer.getD now) } := by
  unfold StopLine.levelEdge
  by_cases answers : level = l.demand
  · simp [answers]
  · by_cases fault : l.fault = true
    · simp [answers, fault]
    · simp [answers, fault]

theorem pulseEdge_falling (l : StopLine) (now : Cycle) : l.pulseEdge false now = { l with ackLevel := false } := rfl

theorem pulseEdge_pulsing (h : l.phase = .pulsing) : l.pulseEdge true now = { l with
    ackLevel := true, fault := false, listenTimer := none, phase := .trailing, attempt := none } := by
  simp [StopLine.pulseEdge, h]

theorem pulseEdge_listening (h : l.phase = .listening) :
    l.pulseEdge true now = { l with ackLevel := true, fault := false }.endSequence now := by
  simp [StopLine.pulseEdge, h]

theorem pulseEdge_stray (h : l.phase = .idle ∨ l.phase = .spacing ∨ l.phase = .trailing) :
    l.pulseEdge true now = { l with ackLevel := true, stray := min 65535 (l.stray + 1) } := by
  rcases h with h | h | h <;> simp [StopLine.pulseEdge, h]

/-! ### The end of a sequence (R131) -/

theorem endSequence_owed (h : l.owed = true) : l.endSequence now = { l with
    phase := .spacing, attempt := none, stopOut := false, owed := false
    pulseTimer := some now, listenTimer := none } :=
  if_pos h

theorem endSequence_idle (h : l.owed = false) : l.endSequence now = { l with
    phase := .idle, attempt := none, stopOut := false, pulseTimer := none, listenTimer := none } :=
  if_neg (by simp [h])

end

/-! ### The running out of the sequence timers (R128) -/

section
variable {u : State} {k : Nat}

theorem pulseRunsOut_pulsing (h : u.sli.phase = .pulsing) : LineBecomes u u.pulseRunsOut
    { u.sli with stopOut := false, pulseTimer := none, phase := .listening } 0 :=
  alterLine_becomes (by simp only [h])

theorem pulseRunsOut_trailing (h : u.sli.phase = .trailing) :
    LineBecomes u u.pulseRunsOut (u.sli.endSequence u.tbu.cycle) 0 :=
  alterLine_becomes (by simp only [h])

theorem pulseRunsOut_spacing (h : u.sli.phase = .spacing) :
    LineBecomes u u.pulseRunsOut (u.sli.startAttempt 1 u.tbu.cycle) 0 :=
  alterLine_becomes (by simp only [h])

theorem listenRunsOut_retries (ha : u.sli.attempt = some k) (more : k < 3) :
    LineBecomes u u.listenRunsOut (u.sli.startAttempt (k + 1) u.tbu.cycle) 0 := by
  unfold State.listenRunsOut
  simp only [ha, Option.getD_some, if_pos more]
  exact alterLine_becomes rfl

theorem listenRunsOut_fails_pulsing (ha : u.sli.attempt = some 3) (h : u.sli.phase = .pulsing) :
    LineBecomes u u.listenRunsOut
      { u.sli with fault := true, phase := .trailing, attempt := none, listenTimer := none } 0x04#8 := by
  unfold State.listenRunsOut
  simp only [ha, Option.getD_some, h]
  exact alterLine_raise_becomes rfl

theorem listenRunsOut_fails_listening (ha : u.sli.attempt = some 3) (h : u.sli.phase = .listening) :
    LineBecomes u u.listenRunsOut ({ u.sli with fault := true }.endSequence u.tbu.cycle) 0x04#8 := by
  unfold State.listenRunsOut
  simp only [ha, Option.getD_some, h]
  exact alterLine_raise_becomes rfl

end

/-! ### The obligations -/

/-- Settles O30: the edge is `levelEdge`, read off field by field, and the timer is due exactly from its limit on. -/
theorem levelLineSupervisesTheAnswer : Obligations.LevelLineSupervisesTheAnswer := by
  constructor
  · intro now since level s u hr mode changed stood
    have shown := alterLine_shown u (takesEdge level u.tbu.cycle)
    exact ⟨_, exec_ackEdge hr changed stood, rfl, shown.1, shown.2,
      (takesEdge_level mode level).trans (levelEdge_eq u.sli level u.tbu.cycle)⟩
  · intro now start s u hr timer
    obtain ⟨expires, waits⟩ := exec_ackTimeout hr timer
    exact ⟨fun past => ⟨_, expires past, alterLine_raise_becomes rfl⟩, waits⟩

/-- Settles O31: the edge is `pulseEdge`, by its direction and the phase that it meets. -/
theorem pulseLineTakesTheAnswer : Obligations.PulseLineTakesTheAnswer := by
  intro now since level s u hr mode changed stood
  have shown := alterLine_shown u (takesEdge level u.tbu.cycle)
  have taken : (u.alterLine (takesEdge level u.tbu.cycle)).sli = u.sli.pulseEdge level u.tbu.cycle :=
    takesEdge_pulse mode level
  refine ⟨_, exec_ackEdge hr changed stood, rfl, shown.1, shown.2, ?falling, ?rising⟩
  case falling =>
    rintro rfl
    exact taken
  case rising =>
    rintro rfl
    exact ⟨fun pulsing => taken.trans (pulseEdge_pulsing pulsing),
      fun listening last => (taken.trans (pulseEdge_listening listening)).trans (endSequence_idle last),
      fun listening owed => (taken.trans (pulseEdge_listening listening)).trans (endSequence_owed owed),
      fun stray => taken.trans (pulseEdge_stray stray)⟩

/-- Settles O32: each row of the table is the running out of its timer in its phase. -/
theorem sequenceTimersFollowTheTable : Obligations.SequenceTimersFollowTheTable := by
  intro now start s hr u l attempt ended becomes
  refine ⟨fun timer past => ?_, fun timer => (exec_pulseTimerExpiry hr timer).2, fun k timer ha past _ => ?_,
    fun timer => (exec_listenTimerExpiry hr timer).2⟩
  · have expires := (exec_pulseTimerExpiry hr timer).1 past
    exact ⟨fun pulsing => ⟨_, expires, pulseRunsOut_pulsing pulsing⟩,
      fun trailing => ⟨_, expires, pulseRunsOut_trailing trailing⟩,
      fun spacing => ⟨_, expires, pulseRunsOut_spacing spacing⟩⟩
  · have expires := (exec_listenTimerExpiry hr timer).1 past
    refine ⟨fun more => ⟨_, expires, listenRunsOut_retries ha more⟩, ?third_pulsing, ?third_listening⟩
    case third_pulsing =>
      rintro rfl pulsing
      exact ⟨_, expires, listenRunsOut_fails_pulsing ha pulsing⟩
    case third_listening =>
      rintro rfl listening
      exact ⟨_, expires, listenRunsOut_fails_listening ha listening⟩

end Sys2Proof.Machine.StopLineProofs
end

section
/-!
PROOFS. The journal's account through every step (O59): the write in flight, the unreleased units and the index. Three
commands of the Report Writer and a reset change it, and every other operation of the part leaves it alone.
-/

namespace Sys2Proof.Machine.ReportProofs

open Sys2Proof Sys2Proof.Machine.TrainProofs

/-! ### The account of the journal (R144) -/

/-- What the bound on the journal is about: the write in flight, the unreleased units and the index. -/
def account (r : Reports) : Option ReportWrite × Nat × List IndexEntry := (r.write, r.unreleased, r.index)

theorem journalBounded_congr {s t : State} (e : account t.rpw = account s.rpw) (h : s.JournalBounded) :
    t.JournalBounded := by
  obtain ⟨write, rest⟩ := Prod.ext_iff.1 e
  obtain ⟨units, index⟩ := Prod.ext_iff.1 rest
  simp only [account] at write units index
  unfold State.JournalBounded
  rw [write, units, index]
  exact h

/-- An operation of a fold that leaves the account alone leaves it alone over the whole list. -/
theorem foldl_account {α : Type} {f : State → α → State} (hf : ∀ s a, account (f s a).rpw = account s.rpw)
    (l : List α) (s : State) : account (l.foldl f s).rpw = account s.rpw :=
  foldl_keeps (fun t => account t.rpw = account s.rpw) (fun t a h => (hf t a).trans h) l s rfl

theorem ite_account {c : Prop} [Decidable c] {s t : State} (h : account t.rpw = account s.rpw) :
    account (if c then t else s).rpw = account s.rpw := by
  split
  · exact h
  · rfl

/-! ### Reports joining the held queue -/

@[simp] theorem joinStub_account (s : State) (c : CountOnly) : account (s.joinStub c).rpw = account s.rpw := by
  show account (if s.rpw.stubs < 8 then _ else _) = _
  split <;> rfl

@[simp] theorem closeBuffer_account (s : State) (b : Fin 4) : account (s.closeBuffer b).rpw = account s.rpw := by
  rw [(closeBuffer_frame s b).2]
  rfl

/-! ### The trains -/

@[simp] theorem closeTrain_account (s : State) (status : CloseStatus) :
    account (s.closeTrain status).rpw = account s.rpw := by
  unfold State.closeTrain
  simp only []
  split
  · exact (ite_account (closeBuffer_account _ _)).trans (by simp)
  · split <;> simp

@[simp] theorem evaluateClose_account (s : State) : account s.evaluateClose.rpw = account s.rpw := by
  unfold State.evaluateClose
  split
  · split <;> simp
  · rfl

@[simp] theorem occupancyChanged_account (s : State) : account s.occupancyChanged.rpw = account s.rpw := by
  simp [State.occupancyChanged, State.syncQuiet]

@[simp] theorem afterOccupancy_account (s : State) (d : Det) (before : Bool) :
    account (s.afterOccupancy d before).rpw = account s.rpw :=
  ite_account (occupancyChanged_account s)

@[simp] theorem request_rpw (s : State) (q : Request) : (s.request q).rpw = s.rpw := by
  unfold State.request State.take
  split
  · simp
  · split
    · rfl
    · split <;> simp

@[simp] theorem putTracked_rpw (s : State) (tr : Tracked) : (s.putTracked tr).rpw = s.rpw := by
  unfold State.putTracked
  split <;> rfl

@[simp] theorem crossOpen_rpw (s : State) (c : Crossing) : (s.crossOpen c).rpw = s.rpw := by
  unfold State.crossOpen
  split
  · rfl
  · simp only []
    split <;> simp

@[simp] theorem openTrain_rpw (s : State) (dir : Dir) : (s.openTrain dir).rpw = s.rpw := rfl

@[simp] theorem takeCrossing_account (s : State) (c : Crossing) :
    account (s.takeCrossing c).rpw = account s.rpw := by
  unfold State.takeCrossing
  split
  · simp
  · split
    · simp
    · split <;> simp
  · split <;> simp

theorem takeEdge_account (s : State) (d : Det) (e : Element) (covered : Bool) (time : Cycle) :
    account (s.takeEdge d e covered time).rpw = account s.rpw := by
  have moved : (s.moveDecoder d e covered time).rpw = s.rpw := rfl
  unfold State.takeEdge
  simp only []
  split <;> simp [moved]

/-! ### Faults, services and the latch -/

@[simp] theorem stick_account (s : State) (d : Det) : account (s.stick d).rpw = account s.rpw := by
  simp [State.stick]

theorem updateBaselines_rpw (s : State) : s.updateBaselines.rpw = s.rpw := by
  unfold State.updateBaselines
  simp only []
  split <;> simp

theorem updateAmbients_rpw (s : State) : s.updateAmbients.rpw = s.rpw := by
  unfold State.updateAmbients
  simp only []
  split <;> simp

theorem serve_account (s : State) (c : Channel) (into : Bool) : account (s.serve c into).rpw = account s.rpw := by
  cases c <;> simp [State.serve]

theorem setService_account (s : State) (o : RunningOrder) : account (s.setService o).rpw = account s.rpw := by
  unfold State.setService
  split <;> simp [serve_account]

@[simp] theorem averagingAtLatch_rpw (s : State) (old : Settings) : (s.averagingAtLatch old).rpw = s.rpw := by
  unfold State.averagingAtLatch
  split <;> rfl

@[simp] theorem stuckAtLatch_account (s : State) : account s.stuckAtLatch.rpw = account s.rpw :=
  foldl_account (fun t _ => ite_account (stick_account t _)) _ s

@[simp] theorem approachAtLatch_rpw (s : State) : s.approachAtLatch.rpw = s.rpw := by
  unfold State.approachAtLatch
  split
  · split <;> simp
  · rfl

@[simp] theorem listenRunsOut_rpw (s : State) : s.listenRunsOut.rpw = s.rpw := by
  unfold State.listenRunsOut
  simp only []
  split
  · rfl
  · split <;> rfl

@[simp] theorem lineAtLatch_rpw (s : State) : s.lineAtLatch.rpw = s.rpw := by
  have runOut (c : Bool) {u v : State} (h : v.rpw = u.rpw) : (if c then v else u).rpw = u.rpw := by
    split
    · exact h
    · rfl
  unfold State.lineAtLatch State.lineTimersAtLatch
  split
  · have acked : s.ackRunsOut.rpw = s.rpw := rfl
    have pulsed (u : State) : u.pulseRunsOut.rpw = u.rpw := rfl
    exact (runOut _ (listenRunsOut_rpw _)).trans ((runOut _ (pulsed _)).trans (runOut _ acked))
  · rfl

@[simp] theorem checkHigh_account (s : State) : account s.checkHigh.rpw = account s.rpw := ite_account rfl

@[simp] theorem checkLow_account (s : State) : account s.checkLow.rpw = account s.rpw := ite_account rfl

@[simp] theorem marksAtLatch_account (s : State) (old : Settings) :
    account (s.marksAtLatch old).rpw = account s.rpw := by
  unfold State.marksAtLatch
  split
  · rfl
  · split <;> simp

@[simp] theorem latch_account (s : State) (c : Settings) : account (s.latch c).rpw = account s.rpw := by
  simp [State.latch]

/-! ### Settlements -/

theorem takeNext_rpw (s : State) : s.takeNext.rpw = s.rpw := by
  unfold State.takeNext State.take
  split <;> simp

theorem complete_account (s : State) (f : Settlement) (r : SettleResult) :
    account (s.complete f r).rpw = account s.rpw := by
  rw [SettlementProofs.complete_frame]

/-! ### Orders -/

theorem arm_account (s : State) (o : RunningOrder) : account (s.arm o).rpw = account s.rpw := by
  unfold State.arm State.armChecked
  simp only []
  repeat' split
  all_goals simp

theorem armWaited_account (s : State) : account s.armWaited.rpw = account s.rpw := by
  unfold State.armWaited
  repeat' split
  all_goals simp

theorem disarm_account (s : State) (o : RunningOrder) : account (s.disarm o).rpw = account s.rpw := by
  unfold State.disarm State.disarmOpen
  simp only []
  repeat' split
  all_goals simp

theorem disarmWaited_rpw (s : State) : s.disarmWaited.rpw = s.rpw := by
  unfold State.disarmWaited
  repeat' split
  all_goals simp

theorem attach_rpw (s : State) (o : RunningOrder) : (s.attach o).rpw = s.rpw := by
  unfold State.attach State.attachTo State.answerAttach
  simp only []
  repeat' split
  all_goals simp

theorem drop_rpw (s : State) (o : RunningOrder) : (s.drop o).rpw = s.rpw := by
  unfold State.drop
  repeat' split
  all_goals simp

theorem peek_rpw (s : State) (o : RunningOrder) : (s.peek o).rpw = s.rpw := by
  unfold State.peek
  simp only []
  repeat' split
  all_goals simp

theorem setTime_account (s : State) (o : RunningOrder) : account (s.setTime o).rpw = account s.rpw := by
  unfold State.setTime State.expireDue
  refine (foldl_account (fun t p => ite_account ?_) _ _).trans (by simp)
  simp

theorem decideAlarm_rpw (s : State) (o : RunningOrder) : (s.decideAlarm o).rpw = s.rpw := by
  unfold State.decideAlarm
  repeat' split
  all_goals simp

@[simp] theorem clearAt_rpw (s : State) (p : Fin 32) : (s.clearAt p).rpw = s.rpw := by
  unfold State.clearAt
  repeat' split
  all_goals simp

theorem clearAll_account (s : State) : account s.clearAll.rpw = account s.rpw := by
  unfold State.clearAll
  simp only [State.handDemand_rpw, State.showStopLine_rpw]
  exact foldl_account (fun t p => by simp) _ s

theorem clearStop_account (s : State) (o : RunningOrder) : account (s.clearStop o).rpw = account s.rpw := by
  unfold State.clearStop
  repeat' split
  all_goals simp [clearAll_account]

/-! ### The site reset -/

theorem abandonSettlements_rpw (s : State) : s.abandonSettlements.rpw = s.rpw := by
  unfold State.abandonSettlements
  simp only []
  split <;> simp

theorem abortSlot_rpw (s : State) (n : Fin 16) : (s.abortSlot n).rpw = s.rpw := by
  unfold State.abortSlot
  split <;> simp

theorem abortOrders_account (s : State) : account s.abortOrders.rpw = account s.rpw := by
  unfold State.abortOrders
  simp only []
  exact foldl_account (fun t n => by rw [abortSlot_rpw]) _ s

theorem dropTrain_rpw (s : State) : s.dropTrain.rpw = s.rpw := rfl

theorem siteReset_account (s : State) : account s.siteReset.rpw = account s.rpw := by
  have committed : account s.commitPending.rpw = account s.rpw := foldl_account (fun t p => by simp) _ s
  unfold State.siteReset
  simp only []
  rw [abortOrders_account, foldl_account closeBuffer_account, dropTrain_rpw, abandonSettlements_rpw, committed]

/-! ### The commands of the Report Writer (R144, R146, R148, R150) -/

theorem formFor_fits {r : Reports} {h : HeldReport} {form : Form} {size : Nat}
    (e : r.formFor h = some (form, size)) : r.fits size = true := by
  unfold Reports.formFor at e
  repeat' split at e
  all_goals cases e
  all_goals assumption

/-- The head that may be written fits, and no other write is in flight (R145, R146). -/
theorem writable_fits {s : State} {h : HeldReport} {form : Form} {size : Nat}
    (e : s.writable = some (h, form, size)) : s.rpw.write = none ∧ s.rpw.fits size = true := by
  unfold State.writable at e
  split at e
  · next idle _ =>
    split at e
    · cases e
    · obtain ⟨_, placed, same⟩ := Option.map_eq_some_iff.1 e
      cases same
      exact ⟨idle, formFor_fits placed⟩
  · cases e

theorem startWrite_rpw (s : State) (h : HeldReport) (form : Form) (size : Nat) :
    (s.startWrite h form size).rpw = { s.rpw with write := some (s.writeFor h form size) } := by
  unfold State.startWrite
  simp only []
  congr 1
  repeat' split
  all_goals rfl

theorem startWrite_bounded {s : State} (b : s.JournalBounded) {h : HeldReport} {form : Form} {size : Nat}
    (fits : s.rpw.fits size = true) : (s.startWrite h form size).JournalBounded := by
  obtain ⟨units, most, _⟩ := b
  unfold State.JournalBounded
  rw [startWrite_rpw]
  refine ⟨units, most, fun w e => ?_⟩
  obtain rfl := Option.some.inj e
  have room : fillerFor s.rpw.position size + size ≤ 5120 - s.rpw.unreleased :=
    of_decide_eq_true fits
  show s.rpw.unreleased + (fillerFor s.rpw.position size + size) ≤ 5120
  omega

theorem completeWrite_account (s : State) (w : ReportWrite) (h : HeldReport) :
    account (s.completeWrite w h).rpw = account (s.rpw.written w) := by
  unfold State.completeWrite
  simp only [checkHigh_account, State.raise_rpw]
  split <;> rfl

/-- The units of a completed write have been counted since its start, so they fit (R146, R148). -/
theorem completeWrite_bounded {s : State} (b : s.JournalBounded) {w : ReportWrite} (h : HeldReport)
    (inFlight : s.rpw.write = some w) : (s.completeWrite w h).JournalBounded := by
  obtain ⟨units, _, flight⟩ := b
  refine journalBounded_congr (s := { s with rpw := s.rpw.written w }) (completeWrite_account s w h) ?_
  refine ⟨?_, flight w inFlight, fun _ e => nomatch e⟩
  show s.rpw.unreleased + (w.filler + w.size) = _
  simp [Reports.written, units, IndexEntry.units]

/-- A release takes from U the units of the entries that it takes from the index (R150). -/
theorem release_units (r : Reports) (a : Word) (units : r.unreleased = (r.index.map IndexEntry.units).sum) :
    (r.release a).unreleased = ((r.release a).index.map IndexEntry.units).sum := by
  have parts := congrArg (fun l : List IndexEntry => (l.map IndexEntry.units).sum)
    (List.takeWhile_append_dropWhile (p := fun e : IndexEntry => !below a e.sequence) (l := r.index))
  simp only [List.map_append, List.sum_append] at parts
  unfold Reports.release
  simp only []
  omega

theorem takeRelease_bounded {s : State} (b : s.JournalBounded) (v : Word) : (s.takeRelease v).JournalBounded := by
  obtain ⟨units, most, flight⟩ := b
  unfold State.takeRelease
  simp only []
  split
  · exact ⟨units, most, flight⟩
  · split
    · exact ⟨units, most, flight⟩
    · let a := lesser v s.rpw.lastWritten
      refine journalBounded_congr (s := { s with rpw := s.rpw.release a }) (checkLow_account _) ?_
      have fewer : (s.rpw.release a).unreleased ≤ s.rpw.unreleased := Nat.sub_le _ _
      exact ⟨release_units s.rpw a units, fewer.trans most, fun w e => by have := flight w e; simp only []; omega⟩

/-! ### Every command and every step -/

section
variable {s t : State} {now : Cycle} {f : State → State}

theorem event_bounded (b : s.JournalBounded) (e : event now s f = .next t)
    (hf : ∀ u : State, u.JournalBounded → (f u).JournalBounded) : t.JournalBounded := by
  unfold event at e
  split at e <;> cases e
  · exact b
  · exact hf _ (journalBounded_congr (by simp) b)

/-- A command whose effect leaves the account alone keeps the bound. -/
theorem event_account (b : s.JournalBounded) (e : event now s f = .next t)
    (hf : ∀ u : State, account (f u).rpw = account u.rpw) : t.JournalBounded :=
  event_bounded b e fun u k => journalBounded_congr (hf u) k

theorem completing_account (k : OrderKind) {g : RunningOrder → State} (hg : ∀ o, account (g o).rpw = account s.rpw) :
    account (s.completing k g).rpw = account s.rpw := by
  unfold State.completing
  split
  · exact ite_account (hg _)
  · rfl

end

theorem reset_bounded (s : State) : s.fullReset.JournalBounded := by
  obtain ⟨_, _, _, _, _, _, bounded, _⟩ := resetMeetsEveryInvariant
  exact bounded

theorem holdReset_bounded (s : State) (resetN : Bool) (core io : Nat) :
    (s.holdReset resetN core io).JournalBounded := by
  have same : (s.holdReset resetN core io).rpw = s.fullReset.rpw := by
    unfold State.holdReset
    rfl
  exact journalBounded_congr (congrArg account same) (reset_bounded s)

theorem powerReset_bounded {s t : State} {now : Cycle} {resetN : Bool} {core io : Nat} (b : s.JournalBounded)
    (e : execPowerReset now resetN core io s = .next t) : t.JournalBounded := by
  unfold execPowerReset at e
  split at e
  · split at e <;> cases e
    · exact reset_bounded _
    · exact journalBounded_congr (by simp) b
  · cases e
    exact holdReset_bounded s resetN core io

/-- Every command keeps the bound: the three of the Report Writer by the room that the write was placed in, the resets
since they empty the journal, and every other one since it leaves the account alone. -/
theorem exec_bounded {s t : State} {c : Instr} (b : s.JournalBounded) (e : exec c s = .next t) : t.JournalBounded := by
  cases c <;> simp only [exec, execElementEdge, execStuckTimerExpiry, execPointComplete, execBaselineUpdate,
    execFlatRunExpiry, execScannerFrame, execSlotComplete, execAmbientUpdate, execLinkTimerExpiry, execSecondPulse,
    execTrimLost, execMillisecondTick, execApproachTimeout, execQuietTimeout, execOpenLimitExpiry,
    execSettlementTake, execExtraction, execSettlementComplete, execCloseComputations, execHoldExpiry, execAckEdge,
    execAckTimeout, execPulseTimerExpiry, execListenTimerExpiry, execReportWriteStart, execReportWriteComplete,
    execReleaseWrite, execPostWrite, execOrderTake, execArm, execWaitingArmLatch, execDisarm,
    execWaitingDisarmComplete, execSetTime, execAttachConsist, execDropConsist, execDecideAlarm, execClearStop,
    execHoldLive, execReleaseLive, execPeekTrain, execSetChannelService, execUnknownKind, execAttnRead,
    execAttnMaskWrite, execSiteReset, execFullReset, execDroppedWrite, execLiveRefresh, execHoldTimerExpiry,
    execHostStore] at e
  case reportWriteStart =>
    refine event_bounded b e fun u k => ?_
    split
    · next placed => exact startWrite_bounded k (writable_fits placed).2
    · exact k
  case reportWriteComplete =>
    refine event_bounded b e fun u k => ?_
    split
    · next inFlight _ => exact completeWrite_bounded k _ inFlight
    · exact k
  case releaseWrite value =>
    exact event_bounded b e fun u k => takeRelease_bounded (s := u.put (headerBase + 4) [value]) k value
  case fullReset => exact event_bounded b e fun u _ => reset_bounded u
  case powerReset => exact powerReset_bounded b e
  case elementEdge => exact event_account b e fun u => ite_account (takeEdge_account ..)
  case stuckTimerExpiry => exact event_account b e fun u => ite_account (stick_account ..)
  case baselineUpdate => exact event_account b e fun u => ite_account (by rw [updateBaselines_rpw])
  case ambientUpdate => exact event_account b e fun u => ite_account (by rw [updateAmbients_rpw])
  case quietTimeout | openLimitExpiry => exact event_account b e fun u => ite_account (closeTrain_account ..)
  case closeComputations => exact event_account b e fun u => ite_account (closeBuffer_account ..)
  case arm => exact event_account b e fun u => completing_account _ (arm_account u)
  case waitingArmLatch => exact event_account b e armWaited_account
  case disarm => exact event_account b e fun u => completing_account _ (disarm_account u)
  case waitingDisarmComplete => exact event_account b e fun u => by rw [disarmWaited_rpw]
  case setTime => exact event_account b e fun u => completing_account _ (setTime_account u)
  case attachConsist => exact event_account b e fun u => completing_account _ fun o => by rw [attach_rpw]
  case dropConsist => exact event_account b e fun u => completing_account _ fun o => by rw [drop_rpw]
  case decideAlarm => exact event_account b e fun u => completing_account _ fun o => by rw [decideAlarm_rpw]
  case clearStop => exact event_account b e fun u => completing_account _ (clearStop_account u)
  case peekTrain => exact event_account b e fun u => completing_account _ fun o => by rw [peek_rpw]
  case setChannelService => exact event_account b e fun u => completing_account _ (setService_account u)
  case siteReset => exact event_account b e siteReset_account
  case settlementTake => exact event_account b e fun u => ite_account (by rw [takeNext_rpw])
  case extraction =>
    refine event_account b e fun u => ?_
    split
    · exact ite_account rfl
    · rfl
  case settlementComplete =>
    refine event_account b e fun u => ?_
    split
    · split
      · exact complete_account ..
      · rfl
    · rfl
  case approachTimeout => exact event_account b e fun u => ite_account (by simp)
  case flatRunExpiry => exact event_account b e fun u => ite_account (by simp [State.flatten])
  case linkTimerExpiry => exact event_account b e fun u => ite_account (by simp [State.unlink])
  case trimLost => exact event_account b e fun u => ite_account (by simp [State.loseTrim])
  case holdExpiry => exact event_account b e fun u => ite_account (by simp)
  case listenTimerExpiry => exact event_account b e fun u => ite_account (by simp)
  case holdLive | releaseLive => exact event_account b e fun u => completing_account _ fun o => rfl
  case secondPulse | attnRead | attnMaskWrite | droppedWrite => exact event_account b e fun u => rfl
  case postWrite => exact event_account b e fun u => by simp
  case orderTake => exact event_account b e fun u => by simp
  case unknownKind =>
    refine event_account b e fun u => ?_
    split
    · exact ite_account (by simp)
    · rfl
  case pointComplete | scannerFrame | slotComplete | millisecondTick | ackEdge | ackTimeout | pulseTimerExpiry |
      liveRefresh | holdTimerExpiry | hostStore => exact event_account b e fun u => ite_account rfl

/-- Settles O59: every command keeps the bound, and a passing cycle does not reach the journal. -/
theorem journalStaysBounded : Obligations.JournalStaysBounded :=
  keptByEveryStep_of_exec (fun _ _ _ => exec_bounded) (fun _ _ b => journalBounded_congr rfl b)
    (fun _ _ b => journalBounded_congr (by simp) b)

end Sys2Proof.Machine.ReportProofs
end

section
/-!
PROOFS. The layouts of chapter 11 that the Report Writer and PEEK_TRAIN write: each run of words shows the items of its
record, and a store of several records shows each of them at its place.
-/

namespace Sys2Proof.Machine.ReportProofs

open Sys2Proof Sys2Proof.Machine.StopLineProofs

/-! ### Words from fields (R193) -/

/-- The fields that a record's items give the word of an index. -/
def fieldsAt (items : List Item) (k : Nat) : List (Nat × Nat × Nat) := (items.filter (fun i => i.1 = k)).map (·.2)

theorem wordSum_eq (items : List Item) (k : Nat) :
    wordSum items k = ((fieldsAt items k).map (fun x => bitField x.1 x.2.1 x.2.2)).sum := by
  rw [fieldsAt, List.map_map]
  rfl

theorem wordSum_of_fields {items : List Item} {k : Nat} {fields : List (Nat × Nat × Nat)}
    (same : fieldsAt items k = fields) :
    wordSum items k = (fields.map (fun x => bitField x.1 x.2.1 x.2.2)).sum := by
  rw [wordSum_eq, same]

/-- A packed word shows the items that name its fields, when the fields fit the word side by side. -/
theorem pack_shows_of_perm {fields : List (Nat × Nat × Nat)} {items : List Item} {k : Nat}
    (fits : (fields.map (fun x => (2 ^ x.2.1 - 1) * 2 ^ x.1)).sum < 2 ^ 32)
    (same : (fieldsAt items k).Perm fields) : (pack fields).toNat = wordSum items k := by
  rw [wordSum_eq, (same.map _).sum_eq]
  exact pack_toNat (lt_of_le_of_lt (List.sum_le_sum fun x _ => Nat.mul_le_mul_right _ (Nat.min_le_right _ _)) fits)

theorem pack_shows {fields : List (Nat × Nat × Nat)} {items : List Item} {k : Nat}
    (fits : (fields.map (fun x => (2 ^ x.2.1 - 1) * 2 ^ x.1)).sum < 2 ^ 32) (same : fieldsAt items k = fields) :
    (pack fields).toNat = wordSum items k :=
  pack_shows_of_perm fits (same ▸ .refl _)

section
variable {items : List Item} {k : Nat}

theorem word_shows {w : Word} (same : fieldsAt items k = [(0, 32, w.toNat)]) : w.toNat = wordSum items k := by
  have := w.isLt
  rw [wordSum_of_fields same]
  simp only [List.map_cons, List.map_nil, List.sum_cons, List.sum_nil, bitField]
  omega

theorem countWord_shows {n : Nat} (same : fieldsAt items k = [(0, 32, n)]) : (countWord n).toNat = wordSum items k := by
  rw [wordSum_of_fields same, TrainProofs.countWord_toNat]
  simp only [List.map_cons, List.map_nil, List.sum_cons, List.sum_nil, bitField]
  omega

theorem lowWord_shows {v : BitVec 64} (same : fieldsAt items k = [(0, 32, v.toNat % 4294967296)]) :
    (lowWord v).toNat = wordSum items k := by
  rw [wordSum_of_fields same, lowWord, BitVec.extractLsb'_toNat]
  simp only [List.map_cons, List.map_nil, List.sum_cons, List.sum_nil, bitField]
  omega

theorem highWord_shows {v : BitVec 64} (same : fieldsAt items k = [(0, 32, v.toNat / 4294967296)]) :
    (highWord v).toNat = wordSum items k := by
  have := v.isLt
  rw [wordSum_of_fields same, highWord, BitVec.extractLsb'_toNat, Nat.shiftRight_eq_div_pow]
  simp only [List.map_cons, List.map_nil, List.sum_cons, List.sum_nil, bitField]
  omega

theorem zero_shows (same : fieldsAt items k = []) : (0 : Word).toNat = wordSum items k := by
  rw [wordSum_of_fields same]
  rfl

/-- A word whose upper two bytes no item names. -/
theorem byteWord_shows_low {a b : Nat} (same : fieldsAt items k = [(0, 8, a), (8, 8, b)]) :
    (byteWord a b 0 0).toNat = wordSum items k := by
  rw [byteWord, pack_toNat, wordSum_of_fields same]
  · simp [bitField]
  · simp only [List.map_cons, List.map_nil, List.sum_cons, List.sum_nil, bitField]
    omega

/-- A word whose third byte is a flag, and whose fourth no item names. -/
theorem byteWord_shows_flag {a b : Nat} {c : Bool}
    (same : fieldsAt items k = [(0, 8, a), (8, 8, b), (16, 1, bit c)]) :
    (byteWord a b (bit c) 0).toNat = wordSum items k := by
  rw [byteWord, pack_toNat, wordSum_of_fields same]
  · cases c <;> simp [bitField, bit]
  · simp only [List.map_cons, List.map_nil, List.sum_cons, List.sum_nil, bitField]
    omega

end

@[simp] theorem bit_eq_flag (b : Bool) : bit b = flag (b = true) := rfl

@[simp] theorem riseItem_eq (r : RiseSlot) : riseItem r = (riseField r, riseRun r) := by
  cases r with
  | empty => rfl
  | valid => rfl
  | invalid reason run => cases reason <;> rfl

/-! ### The words of a record -/

/-- From the word of an index on, each word is the sum of its items, each in its field (R193). -/
def LaysOut (items : List Item) : Nat → List Word → Prop
  | _, [] => True
  | k, w :: ws => w.toNat = wordSum items k ∧ LaysOut items (k + 1) ws

theorem LaysOut.word {items : List Item} : ∀ {k : Nat} {ws : List Word}, LaysOut items k ws →
    ∀ (i : Nat) (hi : i < ws.length), ws[i].toNat = wordSum items (k + i)
  | _, _ :: _, h, 0, _ => h.1
  | k, _ :: ws, h, i + 1, hi => by
    rw [List.getElem_cons_succ, h.2.word i (by simpa using hi)]
    congr 1
    omega

theorem LaysOut.append {items : List Item} : ∀ {k : Nat} {ws vs : List Word}, LaysOut items k ws →
    LaysOut items (k + ws.length) vs → LaysOut items k (ws ++ vs)
  | _, [], _, _, h => h
  | k, _ :: ws, vs, h, h' => ⟨h.1, h.2.append (by
    rw [List.length_cons, ← Nat.add_assoc, Nat.add_right_comm] at h'
    exact h')⟩

theorem laysOut_zeros {items : List Item} : ∀ (n : Nat) {k : Nat}, (∀ j, k ≤ j → fieldsAt items j = []) →
    LaysOut items k (List.replicate n 0)
  | 0, _, _ => trivial
  | n + 1, k, h => ⟨zero_shows (h k (Nat.le_refl k)), laysOut_zeros n fun j hj => h j (by omega)⟩

/-! ### Axle records (R198) -/

theorem axleWords_laysOut (index : Nat) (e : AxleEntry) : LaysOut (axleItems index e) 0 (axleWords index e) := by
  refine ⟨pack_shows (by norm_num) ?state, pack_shows (by norm_num) ?speed, pack_shows (by norm_num) ?railA,
    pack_shows (by norm_num) ?railB, pack_shows (by norm_num) ?limit, pack_shows (by norm_num) ?bearings,
    pack_shows (by norm_num) ?wheels, pack_shows (by norm_num) ?places, trivial⟩
  case speed => cases load : e.load <;> cases temps : e.temps <;> simp [fieldsAt, axleItems, load, temps]
  case state | railA | railB | limit => cases load : e.load <;> simp [fieldsAt, axleItems, load]
  case bearings | wheels | places =>
    cases temps : e.temps <;> simp [fieldsAt, axleItems, AxleEntry.rise, temps, riseField, riseRun]

/-! ### Vehicle records and alarm entries (R199) -/

theorem vehicleWords_laysOut (v : Vehicle) (r : VehicleResult) :
    LaysOut (vehicleItems v r) 0 (vehicleWords v r) := by
  have tag (k : Nat) : ((v.tag[k]?).map (·.toNat)).getD 0 = (v.tag[k]?.getD 0).toNat := by
    cases v.tag[k]? <;> rfl
  refine ⟨pack_shows (by norm_num) ?_, pack_shows (by norm_num) ?_, pack_shows (by norm_num) ?_,
    pack_shows (by norm_num) rfl, pack_shows (by norm_num) rfl, countWord_shows rfl, byteWord_shows_low rfl,
    zero_shows rfl, trivial⟩
  all_goals
    simp only [tag]
    rfl

theorem alarmEntryWords_laysOut (e : AlarmEntry) : LaysOut (alarmItems e) 0 (alarmEntryWords e) := by
  refine ⟨pack_shows (by norm_num) rfl, byteWord_shows_flag ?_, pack_shows (by norm_num) rfl,
    pack_shows (by norm_num) rfl, trivial⟩
  cases outcome : e.outcome <;> simp [fieldsAt, alarmItems, outcome]

/-! ### The filler and the report header (R199) -/

theorem fillerWords_laysOut (units : Nat) :
    LaysOut [(1, 0, 32, units), (5, 0, 3, 4)] 0 (fillerWords units) := by
  refine LaysOut.append ⟨zero_shows rfl, countWord_shows rfl, zero_shows rfl, zero_shows rfl, zero_shows rfl,
    pack_shows (by norm_num) rfl, zero_shows rfl, zero_shows rfl, trivial⟩ (laysOut_zeros _ fun j hj => ?_)
  simp only [List.length_cons, List.length_nil] at hj
  have h1 : 1 ≠ j := by omega
  have h5 : 5 ≠ j := by omega
  simp [fieldsAt, h1, h5]

/-- The span of a train, clamped and as a signed word (R199). -/
theorem openSpan_eq (opened closed : SiteTime) : openSpan opened closed =
    max (-2147483647) (min 2147483647 ((closed.toNat : Int) - opened.toNat)) :=
  clampInt_eq _ _ _ (by decide)

theorem ambientField_eq (a : Option Int) : ambientField a =
    (BitVec.ofInt 12 (match a with | some a => max (-2047) (min 2047 a) | none => -2048)).toNat := by
  cases a with
  | none => rfl
  | some v => rw [ambientField, clampInt_eq _ _ _ (by decide)]

theorem headerWords_laysOut (h : ReportHeader) (w : ReportWrite) (lost : Nat) :
    LaysOut (headerItems h w lost) 0 (headerWords h w lost) := by
  refine ⟨word_shows rfl, word_shows rfl, lowWord_shows rfl, highWord_shows rfl, word_shows ?_, ?_,
    pack_shows (by norm_num) rfl, pack_shows (by norm_num) rfl, pack_shows (by norm_num) rfl,
    pack_shows (by norm_num) rfl, pack_shows (by norm_num) rfl, pack_shows (by norm_num) rfl,
    pack_shows (by norm_num) ?_, pack_shows (by norm_num) ?_, countWord_shows rfl,
    pack_shows (by norm_num) ?_, trivial⟩
  · rw [openSpan_eq]
    rfl
  · refine pack_shows_of_perm (by norm_num [flagFields]) ?_
    exact (List.perm_append_comm (l₁ := flagFields h.sensorFault h.untrimmed h.tableOverflow h.underrun h.phantom
      h.stagingOverflow h.countDisagreement h.substituted h.boardFull) (l₂ := [(18, 9, h.vehicleCount)])).append_left
      [_, _, _, _, _]
  all_goals
    simp only [ambientField_eq]
    rfl

/-! ### The PEEK_TRAIN summary (R195) -/

theorem toList_eq_finRange {α : Type} {n : Nat} (v : Vector α n) : v.toList = (List.finRange n).map v.get := by
  apply List.ext_getElem
  · simp
  · intro i _ _
    simp
    rfl

theorem netWord_eq (n : Int) : netWord n = BitVec.ofInt 32 (max (-2147483647) (min 2147483647 n)) := by
  rw [netWord, clampInt_eq _ _ _ (by decide)]
  rfl

theorem summaryWords_laysOut (r : TrainRecord) (place : Option (Fin 4)) (vehicles : Option Nat)
    (alarms unlisted : Nat) (boardFull : Bool) :
    LaysOut (summaryItems r place vehicles alarms unlisted boardFull) 0
      (summaryWords r place vehicles alarms unlisted boardFull) := by
  refine LaysOut.append ⟨word_shows rfl, pack_shows (by norm_num) ?_, lowWord_shows rfl, highWord_shows rfl,
    pack_shows (by norm_num) rfl, pack_shows (by norm_num) rfl, pack_shows (by norm_num) rfl, word_shows ?_,
    word_shows ?_, pack_shows (by norm_num) rfl, pack_shows (by norm_num [flagFields]) rfl, countWord_shows rfl,
    trivial⟩ ?_
  · cases place <;> rfl
  · rw [netWord_eq]
    rfl
  · rw [netWord_eq]
    rfl
  · rw [toList_eq_finRange]
    exact ⟨word_shows rfl, word_shows rfl, word_shows rfl, word_shows rfl, trivial⟩

/-! ### Stores of records -/

/-- In a longer run of words, some words stand from a place on. -/
def StandsAt (all : List Word) (n : Nat) (ws : List Word) : Prop :=
  ∃ pre post : List Word, all = pre ++ (ws ++ post) ∧ pre.length = n

theorem StandsAt.whole (ws : List Word) : StandsAt ws 0 ws := ⟨[], [], by simp, rfl⟩

theorem StandsAt.before {all ws : List Word} {n : Nat} (h : StandsAt all n ws) (rest : List Word) :
    StandsAt (all ++ rest) n ws := by
  obtain ⟨pre, post, parts, size⟩ := h
  exact ⟨pre, post ++ rest, by simp [parts], size⟩

theorem StandsAt.after {all ws : List Word} {n : Nat} (h : StandsAt all n ws) (front : List Word) :
    StandsAt (front ++ all) (front.length + n) ws := by
  obtain ⟨pre, post, parts, size⟩ := h
  exact ⟨front ++ pre, post, by simp [parts], by simp [size]⟩

/-- The words of one record in a longer store are shown at its place. -/
theorem put_shows {s : State} {base n : Nat} {ws all : List Word} {items : List Item} (laid : LaysOut items 0 ws)
    (stands : StandsAt all n ws) {a count : Nat} (place : a = base + 4 * n) (size : count = ws.length) :
    (s.put base all).mem.Shows a count items := by
  obtain ⟨pre, post, rfl, rfl⟩ := stands
  subst place size
  intro k hk
  have read := State.put_readWord_inside s base (pre ++ (ws ++ post)) (pre.length + k) (by simp; omega)
  rw [List.getElem_append_right (by omega), List.getElem_append_left (by omega)] at read
  rw [show base + 4 * pre.length + 4 * k = base + 4 * (pre.length + k) by omega, read]
  have word := laid.word k hk
  simp only [Nat.zero_add] at word
  simp only [Nat.add_sub_cancel_left]
  exact word

theorem shows_of_same {m m' : Memory} {base n : Nat} {items : List Item} (h : m.Shows base n items)
    (same : ∀ a : Nat, base ≤ a → a < base + 4 * n → m'.readByte a = m.readByte a) : m'.Shows base n items := by
  intro k hk
  rw [← h k hk]
  unfold Memory.readWord
  rw [same _ (by omega) (by omega), same _ (by omega) (by omega), same _ (by omega) (by omega),
    same _ (by omega) (by omega)]

theorem flatMap_length {α : Type} {f : α → List Word} {n : Nat} (len : ∀ x, (f x).length = n) (l : List α) :
    (l.flatMap f).length = n * l.length := by
  simp [List.length_flatMap, len, Nat.mul_comm]

/-- In a run of records of one length, the record of an index stands at its place. -/
theorem flatMap_stands {α : Type} {f : α → List Word} {n : Nat} (len : ∀ x, (f x).length = n) {x : α} :
    ∀ {l : List α} {k : Nat}, l[k]? = some x → StandsAt (l.flatMap f) (n * k) (f x)
  | y :: l, 0, h => by
    obtain rfl : y = x := by simpa using h
    exact (StandsAt.whole (f y)).before _
  | y :: l, k + 1, h => by
    have stands := (flatMap_stands len (l := l) (k := k) (by simpa using h)).after (f y)
    rw [len, Nat.add_comm, ← Nat.mul_succ] at stands
    exact stands

end Sys2Proof.Machine.ReportProofs
end

section
/-!
PROOFS. The completion of a report write and a release (O34, O35): what each does to the journal, and the journal's
words of the site header through it.
-/

namespace Sys2Proof.Machine.ReportProofs

open Sys2Proof Sys2Proof.Machine.StopLineProofs

/-! ### The journal as the site header shows it (R154) -/

/-- From the memory `m` a state comes that shows its journal, and no byte has changed but in the journal's words. -/
def ShowsJournal (m : Memory) (t : State) : Prop :=
  t.mem.readWord 0 = t.rpw.lastWritten ∧ t.mem.Shows 8 6 t.rpw.siteItems ∧
    ∀ a : Nat, 0x04 ≤ a ∧ a < 0x08 ∨ 0x20 ≤ a → t.mem.readByte a = m.readByte a

theorem alterReports_shows {m : Memory} {s : State}
    (same : ∀ a : Nat, 0x04 ≤ a ∧ a < 0x08 ∨ 0x20 ≤ a → s.mem.readByte a = m.readByte a) (f : Reports → Reports) :
    ShowsJournal m (s.alterReports f) := by
  obtain ⟨word, shown, _⟩ := TrainProofs.showJournal_spec { s with rpw := f s.rpw }
  refine ⟨word, shown, fun a ha => ?_⟩
  rw [State.alterReports, State.showJournal_outside _ ha]
  exact same a ha

theorem ShowsJournal.congr {m : Memory} {s t : State} (h : ShowsJournal m s) (mem : t.mem = s.mem)
    (rpw : t.rpw = s.rpw) : ShowsJournal m t := by
  unfold ShowsJournal
  rw [mem, rpw]
  exact h

/-- The RELEASE word is the host's (R154). -/
theorem readWord_release {m m' : Memory}
    (same : ∀ a : Nat, 0x04 ≤ a ∧ a < 0x08 ∨ 0x20 ≤ a → m'.readByte a = m.readByte a) :
    m'.readWord 4 = m.readWord 4 := by
  unfold Memory.readWord
  rw [same _ (by omega), same _ (by omega), same _ (by omega), same _ (by omega)]

/-! ### The marks (R152) -/

/-- The high mark is reached while armed. -/
abbrev HighDue (s : State) : Prop := s.rpw.highArmed = true ∧ s.site.settings.highMark ≤ s.rpw.unreleased

theorem checkHigh_of_due {s : State} (due : HighDue s) :
    s.checkHigh = (s.alterReports (fun r => { r with highArmed := false })).raise .journalHigh := if_pos due

theorem checkHigh_of_not {s : State} (early : ¬HighDue s) : s.checkHigh = s := if_neg early

theorem checkHigh_shows {m : Memory} {s : State} (h : ShowsJournal m s) : ShowsJournal m s.checkHigh := by
  by_cases due : HighDue s
  · rw [checkHigh_of_due due]
    obtain ⟨_, _, same⟩ := h
    exact (alterReports_shows same _).congr (State.raise_mem ..) (State.raise_rpw ..)
  · rwa [checkHigh_of_not due]

theorem checkLow_shows {m : Memory} {s : State} (h : ShowsJournal m s) : ShowsJournal m s.checkLow := by
  unfold State.checkLow
  split
  · obtain ⟨_, _, same⟩ := h
    exact alterReports_shows same _
  · exact h

/-- Reaching the low mark arms the high mark, and nothing else of the journal changes. -/
theorem checkLow_rpw (s : State) : s.checkLow.rpw = { s.rpw with
    highArmed := s.rpw.highArmed || decide (s.rpw.unreleased ≤ s.site.settings.lowMark) } := by
  unfold State.checkLow
  cases armed : s.rpw.highArmed <;> by_cases low : s.rpw.unreleased ≤ s.site.settings.lowMark <;>
    simp [low, ← armed, State.alterReports]

theorem checkLow_frame (s : State) : s.checkLow = { s with rpw := s.checkLow.rpw, mem := s.checkLow.mem } := by
  unfold State.checkLow
  split <;> rfl

/-! ### A release (R150) -/

section
variable {s : State} {v : Word}

theorem takeRelease_ignored (h : below v s.rpw.accepted = true ∨ lesser v s.rpw.lastWritten = s.rpw.accepted) :
    s.takeRelease v = s := by
  unfold State.takeRelease
  split
  · rfl
  · next above => exact if_pos (h.resolve_left above)

theorem takeRelease_accepted (above : below v s.rpw.accepted = false)
    (other : lesser v s.rpw.lastWritten ≠ s.rpw.accepted) :
    s.takeRelease v = (s.alterReports (·.release (lesser v s.rpw.lastWritten))).checkLow := by
  unfold State.takeRelease
  rw [above]
  exact if_neg other

end

theorem exec_releaseWrite {s : State} (hr : s.Running) (now : Cycle) (v : Word) : exec (.releaseWrite now v) s =
    .next (((s.advance now).put (headerBase + 4) [v]).takeRelease v) := by
  show execReleaseWrite now v s = _
  unfold execReleaseWrite
  rw [event_running hr]

/-- The entries that a release frees are those at it or not above it. -/
theorem released_iff (a : Word) (e : IndexEntry) :
    (!below a e.sequence) = (e.sequence == a || !below a e.sequence) := by
  cases same : e.sequence == a with
  | false => rfl
  | true =>
    rw [beq_iff_eq.1 same, below, BitVec.sub_self]
    rfl

/-- The journal after a release, in the words of R150. -/
theorem release_spec (r : Reports) (a : Word) :
    let gone (e : IndexEntry) : Bool := e.sequence == a || !below a e.sequence
    let t := r.release a
    t.accepted = a ∧ t.index = r.index.dropWhile gone ∧
    t.unreleased = r.unreleased - ((r.index.takeWhile gone).map (fun e => e.filler + e.size)).sum ∧
    (t.index = [] → t.oldest = r.position) ∧
    (∀ e rest, t.index = e :: rest → t.oldest = if e.filler = 0 then e.start else 5120 - e.filler) := by
  have same : (fun e : IndexEntry => !below a e.sequence) = fun e => e.sequence == a || !below a e.sequence :=
    funext (released_iff a)
  unfold Reports.release
  simp only [same]
  refine ⟨trivial, trivial, rfl, fun emptied => by rw [emptied], fun e rest kept => by rw [kept]; rfl⟩

/-- Settles O35: an ignored release leaves the state with its word stored, and any other changes the journal, which is
then shown, and tests the low mark. -/
theorem releaseFreesTheJournal : Obligations.ReleaseFreesTheJournal := by
  intro now v s hr u a gone
  refine ⟨_, exec_releaseWrite hr now v, ?_⟩
  let stored := u.put (headerBase + 4) [v]
  have word : stored.mem.readWord 4 = v := State.put_readWord_inside u (headerBase + 4) [v] 0 (by simp)
  have only : u.mem.SameOutside stored.mem 4 4 := fun b hb => State.put_readByte_outside u (headerBase + 4) [v] b hb
  show (stored.takeRelease v = _) ∧ _
  by_cases ignored : below v u.rpw.accepted = true ∨ a = u.rpw.accepted
  · rw [show stored.takeRelease v = stored from takeRelease_ignored ignored]
    refine ⟨rfl, fun b hb => only b (by omega), word, fun _ => ⟨rfl, only⟩, fun _ _ => ⟨rfl, only⟩,
      fun above other => ?_⟩
    rw [above] at ignored
    exact absurd (ignored.resolve_left Bool.false_ne_true) other
  · obtain ⟨above, other⟩ := not_or.1 ignored
    rw [show stored.takeRelease v = (stored.alterReports (·.release a)).checkLow from
      takeRelease_accepted (Bool.eq_false_of_not_eq_true above) other]
    have frame := checkLow_frame (stored.alterReports (·.release a))
    have rpw : (stored.alterReports (·.release a)).checkLow.rpw = { u.rpw.release a with
        highArmed := u.rpw.highArmed || decide ((u.rpw.release a).unreleased ≤ u.site.settings.lowMark) } :=
      checkLow_rpw _
    have shows_ : ShowsJournal stored.mem (stored.alterReports (·.release a)).checkLow :=
      checkLow_shows (alterReports_shows (fun _ _ => rfl) _)
    generalize (stored.alterReports (·.release a)).checkLow = t at frame rpw shows_ ⊢
    obtain ⟨last, shown, outside⟩ := shows_
    obtain ⟨accepted, index, units, emptied, kept⟩ := release_spec u.rpw a
    refine ⟨frame, fun b hb => (outside b (by omega)).trans (only b (by omega)), (readWord_release outside).trans word,
      fun below => absurd below above, fun _ same => absurd same other, fun _ _ => ?_⟩
    rw [rpw]
    refine ⟨?_, ?_, accepted, index, units, emptied, kept, rfl, rfl, rfl, rfl, rfl, ?_⟩
    · rw [last, rpw]
    · rw [← rpw]
      exact shown
    · simp

/-! ### The completion of a write (R148) -/

/-- The machine with a report published, before the high mark is tested (R148). -/
def published (s : State) (w : ReportWrite) (h : HeldReport) : State :=
  { s with
    rpw := s.rpw.written w
    mem := ((s.put (unitBase w.start) (headerWords h.header w s.rpw.lost)).alterReports (·.written w)).mem
    tt := { s.tt with buffers := match h.buffer with
      | some b => alter s.tt.buffers b (fun _ => Buffer.empty)
      | none => s.tt.buffers }
    atu := { s.atu with pending := s.atu.pending ||| 0x01#8 } }

theorem completeWrite_eq (s : State) (w : ReportWrite) (h : HeldReport) :
    s.completeWrite w h = (published s w h).checkHigh := by
  unfold State.completeWrite published
  cases h.buffer <;> rfl

theorem exec_reportWriteComplete {now : Cycle} {s : State} {w : ReportWrite} {h : HeldReport} {rest : List HeldReport}
    (hr : s.Running) (flight : (s.advance now).rpw.write = some w) (head : (s.advance now).rpw.held = h :: rest) :
    exec (.reportWriteComplete now) s = .next (published (s.advance now) w h).checkHigh := by
  show execReportWriteComplete now s = _
  unfold execReportWriteComplete
  rw [event_running hr]
  simp only [flight, head, completeWrite_eq]

theorem published_buffer (s : State) (w : ReportWrite) (h : HeldReport) (b : Fin 4) :
    (published s w h).buffer b = if h.buffer = some b then Buffer.empty else s.buffer b := by
  unfold published State.buffer
  cases freed : h.buffer with
  | none => rfl
  | some a =>
    by_cases same : b = a
    · rw [same, if_pos rfl]
      exact alter_get_self ..
    · rw [if_neg fun e => same (Option.some.inj e).symm]
      exact alter_get_ne _ _ _ _ same

theorem published_shows (s : State) (w : ReportWrite) (h : HeldReport) :
    ShowsJournal (s.put (unitBase w.start) (headerWords h.header w s.rpw.lost)).mem (published s w h) :=
  (alterReports_shows (fun _ _ => rfl) (·.written w)).congr rfl rfl

/-- What the test of the high mark leaves alone, and what it does to the mark and its cause (R152). -/
theorem checkHigh_spec (s : State) :
    s.checkHigh = { s with rpw := s.checkHigh.rpw, mem := s.checkHigh.mem, atu := s.checkHigh.atu } ∧
    s.checkHigh.rpw = { s.rpw with highArmed := s.checkHigh.rpw.highArmed } ∧
    (HighDue s → s.checkHigh.rpw.highArmed = false ∧
      s.checkHigh.atu = { s.atu with pending := s.atu.pending ||| 0x10#8 }) ∧
    (¬HighDue s → s.checkHigh.rpw.highArmed = s.rpw.highArmed ∧ s.checkHigh.atu = s.atu) := by
  by_cases due : HighDue s
  · rw [checkHigh_of_due due]
    exact ⟨rfl, rfl, fun _ => ⟨rfl, rfl⟩, fun early => absurd due early⟩
  · rw [checkHigh_of_not due]
    exact ⟨rfl, rfl, fun is => absurd is due, fun _ => ⟨rfl, rfl⟩⟩

/-- The journal's words after a completion, when no report is lost (R194). -/
theorem siteItems_of_none_lost {m : Memory} {r : Reports} (shown : m.Shows 8 6 r.siteItems) (lost : r.lost = 0) :
    m.Shows 8 6 [(0, 0, 32, r.accepted.toNat), (1, 0, 32, r.position), (2, 0, 32, r.oldest),
      (3, 0, 32, r.unreleased), (4, 0, 8, r.held.length), (4, 8, 8, r.stubs),
      (4, 16, 1, flag (r.highArmed = true))] := by
  intro k hk
  rw [shown k hk]
  have parts : r.siteItems = [(0, 0, 32, r.accepted.toNat), (1, 0, 32, r.position), (2, 0, 32, r.oldest),
      (3, 0, 32, r.unreleased), (4, 0, 8, r.held.length), (4, 8, 8, r.stubs),
      (4, 16, 1, flag (r.highArmed = true))] ++ [(5, 0, 32, 0)] := by
    rw [Reports.siteItems, lost]
    rfl
  have absent : wordSum [(5, 0, 32, 0)] k = 0 := by
    unfold wordSum
    by_cases h : 5 = k <;> simp [h]
  show wordSum _ k = wordSum _ k
  rw [parts]
  unfold wordSum at absent ⊢
  rw [List.filter_append, List.map_append, List.sum_append, absent, Nat.add_zero]

/-- Settles O34: the machine with the report published, with the high mark then tested. -/
theorem completionPublishesTheReport : Obligations.CompletionPublishesTheReport := by
  intro now w h rest s u used high hr flight head
  refine ⟨_, exec_reportWriteComplete hr flight head, ?_⟩
  have due : HighDue (published u w h) ↔ high := Iff.rfl
  obtain ⟨frame, rpw, reached, unreached⟩ := checkHigh_spec (published u w h)
  have shows_ := checkHigh_shows (published_shows u w h)
  rw [due] at reached unreached
  have buffers (b : Fin 4) : (published u w h).checkHigh.buffer b = (published u w h).buffer b := by
    rw [frame]
    rfl
  generalize (published u w h).checkHigh = t at frame rpw reached unreached shows_ buffers ⊢
  obtain ⟨last, shown, outside⟩ := shows_
  have held : t.rpw.held = rest := by rw [rpw, ← List.tail_cons (a := h) (as := rest), ← head]; rfl
  have header : (u.put (unitBase w.start) (headerWords h.header w u.rpw.lost)).mem.Shows (unitBase w.start) 16
      (headerItems h.header w u.rpw.lost) :=
    put_shows (headerWords_laysOut h.header w u.rpw.lost) (.whole _) rfl rfl
  have after : 0x7000 ≤ unitBase w.start := Nat.le_add_right ..
  have lost : t.rpw.lost = 0 := by rw [rpw]; rfl
  refine ⟨?_, by rw [rpw]; rfl, held, lost, by rw [rpw]; rfl, by rw [rpw]; rfl, by rw [rpw]; rfl, by rw [rpw]; rfl,
    by rw [rpw]; rfl, by rw [rpw]; rfl, ?_, fun b => (buffers b).trans (published_buffer u w h b), fun is => ?_,
    fun is => ?_, shows_of_same header fun a _ _ => outside a (by omega), ?_, fun a ha hb => ?_⟩
  · exact frame.trans (by rw [frame]; rfl)
  · rw [last, rpw]
    rfl
  · obtain ⟨mark, atu⟩ := reached is
    refine ⟨mark, atu.trans ?_⟩
    show { u.atu with pending := (u.atu.pending ||| 0x01#8) ||| 0x10#8 } = _
    rw [BitVec.or_assoc]
    rfl
  · obtain ⟨mark, atu⟩ := unreached is
    exact ⟨mark, atu⟩
  · have := siteItems_of_none_lost shown lost
    rwa [held] at this
  · rw [outside a hb]
    exact State.put_readByte_outside _ _ _ _ ha

end Sys2Proof.Machine.ReportProofs
end

section
/-!
PROOFS. The placement of the head of the held queue (O33): when it may be written and in which form, and what its filler
and its body show.
-/

namespace Sys2Proof.Machine.ReportProofs

open Sys2Proof Sys2Proof.Machine.StopLineProofs

/-! ### The body of a report (R137) -/

theorem fillerWords_length {n : Nat} (h : 0 < n) : (fillerWords n).length = 8 * n := by
  simp [fillerWords]
  omega

theorem alarmUnits_length (es : List AlarmEntry) : (alarmUnits es).length = 8 * ((es.length + 1) / 2) := by
  unfold alarmUnits
  rw [List.length_append, flatMap_length (n := 4) fun _ => rfl]
  split
  · rw [List.length_replicate]
    omega
  · rw [List.length_nil]
    omega

theorem vehicleCount_eq (x : Buffer) : x.vehicleCount = (x.consist.getD []).length := by
  unfold Buffer.vehicleCount
  cases x.consist <;> rfl

/-- The axle entries that a buffered report's form shows (R137, R140). -/
theorem axlesShown_eq {form : Form} (h : form = .full ∨ form = .summary) (axles : List AxleEntry) :
    axlesShown form axles = axles.zipIdx.filter (fun e => form = .full ∨ e.1.alarmBits ≠ 0) := by
  rcases h with rfl | rfl
  · simp [axlesShown]
  · simp only [axlesShown]
    congr 1
    funext e
    cases h : e.1.alarmBits != 0 <;> simpa using h

section
variable {x : Buffer} {form : Form}

/-- The words of the vehicle records, and of the axle records, of a body. -/
def vehiclePart (x : Buffer) : List Word := ((x.consist.getD []).zip x.vehicles).flatMap (fun v => vehicleWords v.1 v.2)

def axlePart (x : Buffer) (form : Form) : List Word := (axlesShown form x.axles).flatMap (fun a => axleWords a.2 a.1)

theorem bodyWords_eq : x.bodyWords form = vehiclePart x ++ (axlePart x form ++ alarmUnits x.alarms) := rfl

theorem vehiclePart_length (h : x.vehicles.length = (x.consist.getD []).length) :
    (vehiclePart x).length = 8 * (x.consist.getD []).length := by
  rw [vehiclePart, flatMap_length (n := 8) fun _ => rfl, List.length_zip, h, Nat.min_self]

theorem axlePart_length : (axlePart x form).length = 8 * (axlesShown form x.axles).length :=
  flatMap_length (n := 8) (fun _ => rfl) _

theorem bodyWords_length (h : x.vehicles.length = (x.consist.getD []).length) : (x.bodyWords form).length =
    8 * ((x.consist.getD []).length + (axlesShown form x.axles).length + (x.alarms.length + 1) / 2) := by
  rw [bodyWords_eq, List.length_append, List.length_append, vehiclePart_length h, axlePart_length, alarmUnits_length]
  omega

theorem vehicle_stands {k : Nat} {v : Vehicle} {y : VehicleResult} (hv : (x.consist.getD [])[k]? = some v)
    (hy : x.vehicles[k]? = some y) : StandsAt (x.bodyWords form) (8 * k) (vehicleWords v y) := by
  have both : ((x.consist.getD []).zip x.vehicles)[k]? = some (v, y) := List.getElem?_zip_eq_some.2 ⟨hv, hy⟩
  exact (flatMap_stands (f := fun v : Vehicle × VehicleResult => vehicleWords v.1 v.2) (n := 8) (fun _ => rfl)
    both).before _

theorem axle_stands (h : x.vehicles.length = (x.consist.getD []).length) {k : Nat} {e : AxleEntry × Nat}
    (he : (axlesShown form x.axles)[k]? = some e) :
    StandsAt (x.bodyWords form) (8 * ((x.consist.getD []).length + k)) (axleWords e.2 e.1) := by
  have stands := ((flatMap_stands (f := fun a : AxleEntry × Nat => axleWords a.2 a.1) (n := 8) (fun _ => rfl) he).before
    (alarmUnits x.alarms)).after (vehiclePart x)
  rw [vehiclePart_length h, ← Nat.mul_add] at stands
  exact stands

theorem alarms_stand (h : x.vehicles.length = (x.consist.getD []).length) {n : Nat} {ws : List Word}
    (stands : StandsAt (alarmUnits x.alarms) n ws) : StandsAt (x.bodyWords form)
      (8 * ((x.consist.getD []).length + (axlesShown form x.axles).length) + n) ws := by
  have after := (stands.after (axlePart x form)).after (vehiclePart x)
  rw [vehiclePart_length h, axlePart_length, ← Nat.add_assoc, ← Nat.mul_add] at after
  exact after

theorem alarm_stands {k : Nat} {e : AlarmEntry} (he : x.alarms[k]? = some e) :
    StandsAt (alarmUnits x.alarms) (4 * k) (alarmEntryWords e) :=
  (flatMap_stands (f := alarmEntryWords) (n := 4) (fun _ => rfl) he).before _

theorem padding_stands (odd : x.alarms.length % 2 = 1) :
    StandsAt (alarmUnits x.alarms) (4 * x.alarms.length) (List.replicate 4 0) := by
  have stands := (StandsAt.whole (List.replicate 4 (0 : Word))).after (x.alarms.flatMap alarmEntryWords)
  rw [flatMap_length (n := 4) fun _ => rfl] at stands
  unfold alarmUnits
  rw [if_pos odd]
  exact stands

end

/-! ### The write (R146, R147) -/

section
variable {s : State} {h : HeldReport} {form : Form} {size : Nat}

theorem writeFor_fits (fits : s.rpw.position + size ≤ 5120) :
    (s.writeFor h form size).start = s.rpw.position ∧ (s.writeFor h form size).filler = 0 := by
  have unfilled : fillerFor s.rpw.position size = 0 := if_pos fits
  exact ⟨if_pos unfilled, unfilled⟩

theorem writeFor_wraps (beyond : 5120 < s.rpw.position + size) (inside : s.rpw.position < 5120) :
    (s.writeFor h form size).start = 0 ∧ (s.writeFor h form size).filler = 5120 - s.rpw.position := by
  have rest : fillerFor s.rpw.position size = 5120 - s.rpw.position := if_neg (by unfold journalUnits; omega)
  exact ⟨if_neg (by omega), rest⟩

/-- A write with a filler starts at the first unit (R146). -/
theorem writeFor_start (filled : 0 < (s.writeFor h form size).filler) : (s.writeFor h form size).start = 0 :=
  if_neg (Nat.ne_of_gt filled)

/-- The machine with the filler of a write stored, if it has one. -/
def filled (s : State) (w : ReportWrite) : State :=
  if w.filler = 0 then s else s.put (unitBase s.rpw.position) (fillerWords w.filler)

/-- The machine with a write begun (R147): its filler stored, and of a buffered report the body stored and the buffer
WRITING. -/
def writing (s : State) (h : HeldReport) (form : Form) (size : Nat) : State :=
  let w := s.writeFor h form size
  { s with
    rpw := { s.rpw with write := some w }
    mem := (h.buffer.elim (filled s w) (fun b =>
      (filled s w).put (unitBase (w.start + 2)) ((s.buffer b).bodyWords form))).mem
    tt := { s.tt with buffers := h.buffer.elim s.tt.buffers (fun b =>
      alter s.tt.buffers b (fun x => { x with state := .writing })) } }

theorem startWrite_eq : s.startWrite h form size = writing s h form size := by
  unfold State.startWrite writing filled
  simp only []
  by_cases unfilled : (s.writeFor h form size).filler = 0
  · simp only [if_pos unfilled]
    cases h.buffer <;> rfl
  · simp only [if_neg unfilled]
    cases h.buffer <;> rfl

theorem writing_buffer (b : Fin 4) : (writing s h form size).buffer b =
    if h.buffer = some b then { s.buffer b with state := .writing } else s.buffer b := by
  show (h.buffer.elim s.tt.buffers _).get b = _
  cases h.buffer with
  | none => rfl
  | some a =>
    rw [Option.elim_some]
    by_cases same : b = a
    · rw [same, if_pos rfl, alter_get_self]
      rfl
    · rw [if_neg fun e => same (Option.some.inj e).symm, alter_get_ne _ _ _ _ same]
      rfl

theorem writing_stub (stub : h.buffer = none) :
    (writing s h form size).mem = (filled s (s.writeFor h form size)).mem := by
  unfold writing
  rw [stub]
  rfl

theorem writing_body {b : Fin 4} (buffered : h.buffer = some b) : (writing s h form size).mem =
    ((filled s (s.writeFor h form size)).put (unitBase ((s.writeFor h form size).start + 2))
      ((s.buffer b).bodyWords form)).mem := by
  unfold writing
  rw [buffered]
  rfl

theorem filled_outside {w : ReportWrite} {a : Nat}
    (out : w.filler = 0 ∨ a < unitBase s.rpw.position ∨ unitBase s.rpw.position + 32 * w.filler ≤ a) :
    (filled s w).mem.readByte a = s.mem.readByte a := by
  unfold filled
  split
  · rfl
  · next filler =>
    exact State.put_readByte_outside _ _ _ _ (by rw [fillerWords_length (Nat.pos_of_ne_zero filler)]; omega)

theorem filled_shows {w : ReportWrite} (filler : 0 < w.filler) :
    (filled s w).mem.Shows (unitBase s.rpw.position) (8 * w.filler) [(1, 0, 32, w.filler), (5, 0, 3, 4)] := by
  unfold filled
  rw [if_neg (Nat.ne_of_gt filler)]
  exact put_shows (fillerWords_laysOut w.filler) (.whole _) rfl (fillerWords_length filler).symm

theorem writing_outside {a : Nat}
    (filler : (s.writeFor h form size).filler = 0 ∨ a < unitBase s.rpw.position ∨
      unitBase s.rpw.position + 32 * (s.writeFor h form size).filler ≤ a)
    (body : ∀ b, h.buffer = some b → a < unitBase ((s.writeFor h form size).start + 2) ∨
      unitBase ((s.writeFor h form size).start + 2) + 4 * ((s.buffer b).bodyWords form).length ≤ a) :
    (writing s h form size).mem.readByte a = s.mem.readByte a := by
  cases k : h.buffer with
  | none => rw [writing_stub k, filled_outside filler]
  | some b => rw [writing_body k, State.put_readByte_outside _ _ _ _ (body b k), filled_outside filler]

theorem writing_shows {b : Fin 4} (buffered : h.buffer = some b) {n a count : Nat} {ws : List Word} {items : List Item}
    (laid : LaysOut items 0 ws) (stands : StandsAt ((s.buffer b).bodyWords form) n ws)
    (place : a = unitBase ((s.writeFor h form size).start + 2) + 4 * n) (words : count = ws.length) :
    (writing s h form size).mem.Shows a count items := by
  rw [writing_body buffered]
  exact put_shows laid stands place words

section
variable {b : Fin 4}

theorem writing_shows_vehicle (buffered : h.buffer = some b) {k : Nat} {v : Vehicle} {y : VehicleResult}
    (hv : ((s.buffer b).consist.getD [])[k]? = some v) (hy : (s.buffer b).vehicles[k]? = some y) :
    (writing s h form size).mem.Shows (unitBase ((s.writeFor h form size).start + 2) + 32 * k) 8 (vehicleItems v y) :=
  writing_shows buffered (vehicleWords_laysOut v y) (vehicle_stands hv hy) (by omega) rfl

variable (buffered : h.buffer = some b)
  (mapped : (s.buffer b).vehicles.length = ((s.buffer b).consist.getD []).length)
include buffered mapped

theorem writing_shows_axle {k : Nat} {e : AxleEntry × Nat} (he : (axlesShown form (s.buffer b).axles)[k]? = some e) :
    (writing s h form size).mem.Shows (unitBase ((s.writeFor h form size).start + 2) +
      32 * (((s.buffer b).consist.getD []).length + k)) 8 (axleItems e.2 e.1) :=
  writing_shows buffered (axleWords_laysOut e.2 e.1) (axle_stands mapped he) (by omega) rfl

theorem writing_shows_alarm {k : Nat} {e : AlarmEntry} (he : (s.buffer b).alarms[k]? = some e) :
    (writing s h form size).mem.Shows (unitBase ((s.writeFor h form size).start + 2) +
      32 * (((s.buffer b).consist.getD []).length + (axlesShown form (s.buffer b).axles).length) + 16 * k) 4
      (alarmItems e) :=
  writing_shows buffered (alarmEntryWords_laysOut e) (alarms_stand mapped (alarm_stands he)) (by omega) rfl

theorem writing_shows_padding (odd : (s.buffer b).alarms.length % 2 = 1) :
    (writing s h form size).mem.Shows (unitBase ((s.writeFor h form size).start + 2) +
      32 * (((s.buffer b).consist.getD []).length + (axlesShown form (s.buffer b).axles).length +
        ((s.buffer b).alarms.length + 1) / 2) - 16) 4 [] :=
  writing_shows buffered (laysOut_zeros 4 fun _ _ => rfl) (alarms_stand mapped (padding_stands odd)) (by omega) rfl

end

/-- A body that ends before the write position leaves the filler as it was written. -/
theorem writing_shows_filler {b : Fin 4} (buffered : h.buffer = some b)
    (filler : 0 < (s.writeFor h form size).filler)
    (apart : 64 + 4 * ((s.buffer b).bodyWords form).length ≤ 32 * s.rpw.position) :
    (writing s h form size).mem.Shows (unitBase s.rpw.position) (8 * (s.writeFor h form size).filler)
      [(1, 0, 32, (s.writeFor h form size).filler), (5, 0, 3, 4)] := by
  refine shows_of_same (filled_shows filler) fun a ha _ => ?_
  rw [writing_body buffered]
  refine State.put_readByte_outside _ _ _ _ (.inr ?_)
  rw [writeFor_start filler]
  unfold unitBase at ha ⊢
  omega

theorem writeFor_stub (stub : h.buffer = none) : (s.writeFor h .stub size).vehicles = 0 ∧
    (s.writeFor h .stub size).axles = 0 ∧ (s.writeFor h .stub size).alarms = 0 := by
  unfold State.writeFor
  rw [stub]
  exact ⟨rfl, rfl, rfl⟩

theorem writeFor_buffered {b : Fin 4} (buffered : h.buffer = some b) :
    (s.writeFor h form size).vehicles = ((s.buffer b).consist.getD []).length ∧
    (s.writeFor h form size).axles = (axlesShown form (s.buffer b).axles).length ∧
    (s.writeFor h form size).alarms = (s.buffer b).alarms.length := by
  unfold State.writeFor
  rw [buffered]
  exact ⟨vehicleCount_eq _, rfl, rfl⟩

end

/-! ### The head of the held queue (R145, R146) -/

section
variable {now : Cycle} {s : State} {h : HeldReport} {rest : List HeldReport}

/-- Without a write in flight, the head is tried once no lower train is CLOSING (R145). -/
theorem writable_eq {u : State} (idle : u.rpw.write = none) (head : u.rpw.held = h :: rest) : u.writable =
    if u.closingBelow h.header.number then none else (u.rpw.formFor h).map (fun x => (h, x.1, x.2)) := by
  unfold State.writable
  rw [idle, head]

theorem exec_reportWriteStart (hr : s.Running) : exec (.reportWriteStart now) s =
    .next ((s.advance now).writable.elim (s.advance now) fun x => writing (s.advance now) x.1 x.2.1 x.2.2) := by
  show execReportWriteStart now s = _
  unfold execReportWriteStart
  rw [event_running hr]
  cases (s.advance now).writable with
  | none => rfl
  | some x => exact congrArg Host.Outcome.next startWrite_eq

theorem formFor_stub {r : Reports} (stub : h.buffer = none) :
    r.formFor h = if r.fits h.fullSize then some (.stub, h.fullSize) else none := by
  rw [Reports.formFor, stub]
  rfl

theorem formFor_buffered {r : Reports} (buffered : h.buffer ≠ none) : r.formFor h =
    if r.fits h.fullSize then some (.full, h.fullSize)
    else if r.fits h.summarySize then some (.summary, h.summarySize) else none := by
  obtain ⟨b, held⟩ := Option.ne_none_iff_exists'.1 buffered
  rw [Reports.formFor, held]
  rfl

end

/-- Settles O33: a head that fits is written, in the form that the room allows, and the write shows the filler and each
record of the body at its place; any other head waits. -/
theorem headIsPlacedByTheRoom : Obligations.HeadIsPlacedByTheRoom := by
  intro now h rest s u p room placed hr idle head
  have place {form : Form} {size : Nat} (stub : h.buffer = none → form = .stub)
      (shows_ : ∀ b, h.buffer = some b → form = .full ∨ form = .summary)
      (ready : exec (.reportWriteStart now) s = .next (writing u h form size)) : placed form size := by
    refine ⟨_, u.writeFor h form size, ready, rfl, rfl, rfl, rfl, rfl, writeFor_fits, writeFor_wraps, writing_buffer,
      fun a => writing_outside, fun unbuffered => ?_, ?_⟩
    · obtain rfl := stub unbuffered
      obtain ⟨noVehicles, noAxles, noAlarms⟩ := writeFor_stub (s := u) (size := size) unbuffered
      refine ⟨noVehicles, noAxles, noAlarms, fun filler => ?_⟩
      rw [writing_stub unbuffered]
      exact filled_shows filler
    · intro b buffered x vehicles shown units base mapped
      obtain ⟨allVehicles, allAxles, allAlarms⟩ := writeFor_buffered (s := u) (form := form) (size := size) buffered
      have same : axlesShown form x.axles = shown := axlesShown_eq (shows_ b buffered) x.axles
      have length : (x.bodyWords form).length = 8 * units := by rw [bodyWords_length mapped, same]
      rw [same] at allAxles
      refine ⟨allVehicles, allAxles, allAlarms, fun filler apart => ?_, fun k v y hv hy => ?_, fun k e he => ?_,
        fun k e he => ?_, fun odd => ?_⟩
      · exact writing_shows_filler buffered filler (by rw [length]; omega)
      · exact writing_shows_vehicle buffered hv hy
      · rw [← same] at he
        exact writing_shows_axle buffered mapped he
      · rw [← same]
        exact writing_shows_alarm buffered mapped he
      · have padded := writing_shows_padding (form := form) (size := size) buffered mapped odd
        rw [same] at padded
        exact padded
  have starts := exec_reportWriteStart (now := now) hr
  rw [writable_eq idle head] at starts
  refine ⟨fun ⟨b, closing, lower⟩ => ?_, fun clear => ?_⟩
  · have closingBelow : u.closingBelow h.header.number = true := by
      by_contra above
      have := (closingBelow_eq_false ..).1 (Bool.eq_false_of_not_eq_true above) b closing
      exact Bool.false_ne_true (this.symm.trans lower)
    rw [if_pos closingBelow] at starts
    exact starts
  · rw [if_neg (by rw [(closingBelow_eq_false ..).2 clear]; exact Bool.false_ne_true)] at starts
    have fits {n : Nat} (enough : unitsNeeded p n ≤ room) : u.rpw.fits n = true := (fits_iff ..).2 enough
    have exceeds {n : Nat} (short : room < unitsNeeded p n) : ¬u.rpw.fits n = true := fun k =>
      not_le.2 short ((fits_iff ..).1 k)
    refine ⟨fun stub full => ?_, fun buffered full => ?_, fun buffered short summary => ?_, fun short waits => ?_⟩
    · rw [formFor_stub stub, if_pos (fits full)] at starts
      exact place (fun _ => rfl) (fun b e => by rw [stub] at e; cases e) starts
    · rw [formFor_buffered buffered, if_pos (fits full)] at starts
      exact place (fun stub => absurd stub buffered) (fun _ _ => .inl rfl) starts
    · rw [formFor_buffered buffered, if_neg (exceeds short), if_pos (fits summary)] at starts
      exact place (fun stub => absurd stub buffered) (fun _ _ => .inr rfl) starts
    · by_cases stub : h.buffer = none
      · rw [formFor_stub stub, if_neg (exceeds short)] at starts
        exact starts
      · rw [formFor_buffered stub, if_neg (exceeds short), if_neg (exceeds (waits.resolve_left stub))] at starts
        exact starts

end Sys2Proof.Machine.ReportProofs
end

section
/-!
PROOFS. PEEK_TRAIN (O44): its checks, and what the summary block and the result area show of the open train.
-/

namespace Sys2Proof.Machine.ReportProofs

open Sys2Proof Sys2Proof.Machine.StopLineProofs Sys2Proof.Machine.ConsistProofs

/-! ### The entries copied (R170) -/

section
variable {axles : List AxleEntry} {first count : Nat}

theorem peekAxles_length : (peekAxles axles first count).length = min count (axles.length - first) := by
  simp [peekAxles]

theorem peekAxles_get {k : Nat} {e : AxleEntry} (he : axles[first + k]? = some e) (hk : k < count) :
    (peekAxles axles first count)[k]? = some (e, first + k) := by
  simp [peekAxles, hk, List.getElem?_zipIdx, he]

end

/-! ### The result area (R195) -/

section
variable {shown : List (AxleEntry × Nat)}

theorem axles_length : (shown.flatMap (fun a => axleWords a.2 a.1)).length = 8 * shown.length :=
  flatMap_length (n := 8) (fun _ => rfl) _

theorem peekArea_length (h : shown.length ≤ 12) : (peekArea shown).length = 96 := by
  rw [peekArea, List.length_append, axles_length, List.length_replicate]
  unfold peekMost
  omega

theorem entry_stands {k : Nat} {e : AxleEntry × Nat} (he : shown[k]? = some e) :
    StandsAt (peekArea shown) (8 * k) (axleWords e.2 e.1) :=
  (flatMap_stands (f := fun a : AxleEntry × Nat => axleWords a.2 a.1) (n := 8) (fun _ => rfl) he).before _

theorem zeros_stand {k : Nat} (beyond : shown.length ≤ k) (hk : k < 12) :
    StandsAt (peekArea shown) (8 * k) (List.replicate 8 0) := by
  refine ⟨shown.flatMap (fun a => axleWords a.2 a.1) ++ List.replicate (8 * (k - shown.length)) 0,
    List.replicate (8 * (11 - k)) 0, ?_, ?_⟩
  · unfold peekArea peekMost
    rw [List.append_assoc, List.replicate_append_replicate, List.replicate_append_replicate]
    congr 2
    omega
  · rw [List.length_append, axles_length, List.length_replicate]
    omega

end

/-! ### The order (R170) -/

section
variable {s : State} {o : RunningOrder}

theorem exec_peekTrain {now : Cycle} (hr : s.Running) (runs : (s.advance now).RunsOrder .peekTrain o) :
    exec (.peekTrain now) s = .next ((s.advance now).peek o) := by
  show execPeekTrain now s = _
  unfold execPeekTrain
  rw [event_running hr, State.completing_of_runs runs]

theorem peek_badArgument (h : o.arg2.toNat = 0 ∨ 12 < o.arg2.toNat ∨ 1023 < o.arg1.toNat) :
    s.peek o = s.finishRunning o.slot .badArgument 0 0 := by
  unfold State.peek peekMost
  simp only []
  split
  · rfl
  · exact if_pos (by omega)

/-- The machine with the summary block and the result area of a peek stored. -/
def peeked (s : State) (o : RunningOrder) (r : TrainRecord) : State :=
  (s.put (slotBase o.slot + 0x40) (s.peekSummary r)).put (slotBase o.slot + 0x80)
    (peekArea (peekAxles s.openAxles o.arg1.toNat o.arg2.toNat))

variable (low : 1 ≤ o.arg2.toNat) (high : o.arg2.toNat ≤ 12) (index : o.arg1.toNat ≤ 1023)
include low high index

theorem peek_noTrain (shut : s.openRecord = none) : s.peek o = s.finishRunning o.slot .noTrain 0 0 := by
  unfold State.peek peekMost
  rw [if_neg (by omega), if_neg (by omega), shut]

theorem peek_train {r : TrainRecord} (opened : s.openRecord = some r) : s.peek o =
    (peeked s o r).finishRunning o.slot .done
      (BitVec.ofNat 32 (min o.arg2.toNat (s.openAxles.length - o.arg1.toNat)))
      (BitVec.ofNat 32 (min r.entries 4294967295)) := by
  have few : countWord (peekAxles s.openAxles o.arg1.toNat o.arg2.toNat).length =
      BitVec.ofNat 32 (min o.arg2.toNat (s.openAxles.length - o.arg1.toNat)) := by
    rw [countWord, peekAxles_length, Nat.min_eq_left (by omega)]
  unfold State.peek peekMost
  rw [if_neg (by omega), if_neg (by omega), opened, ← few]
  rfl

end

/-! ### What a peek shows -/

theorem openAxles_eq (s : State) : s.openAxles = match s.bufferIn .opened with
    | some b => (s.buffer b).axles
    | none => [] := by
  unfold State.openAxles
  cases s.bufferIn .opened <;> rfl

theorem summaryWords_length (r : TrainRecord) (place : Option (Fin 4)) (vehicles : Option Nat) (alarms unlisted : Nat)
    (boardFull : Bool) : (summaryWords r place vehicles alarms unlisted boardFull).length = 16 := by
  simp [summaryWords]

theorem summary_number {m : Memory} {base : Nat} {r : TrainRecord} {place : Option (Fin 4)} {vehicles : Option Nat}
    {alarms unlisted : Nat} {boardFull : Bool}
    (shown : m.Shows base 16 (summaryItems r place vehicles alarms unlisted boardFull)) :
    m.readWord base = r.number :=
  BitVec.eq_of_toNat_eq ((shown 0 (by omega)).trans (word_shows rfl).symm)

section
variable {s : State} {o : RunningOrder} {r : TrainRecord}

theorem peekSummary_length : (s.peekSummary r).length = 16 := by
  unfold State.peekSummary
  split <;> exact summaryWords_length ..

theorem peeked_outside (few : o.arg2.toNat ≤ 12) :
    s.mem.SameOutside (peeked s o r).mem (slotBase o.slot + 0x40) 0x1C0 := by
  intro a ha
  have area : (peekArea (peekAxles s.openAxles o.arg1.toNat o.arg2.toNat)).length = 96 :=
    peekArea_length (by rw [peekAxles_length]; omega)
  unfold peeked
  rw [State.put_readByte_outside _ _ _ _ (by rw [area]; omega),
    State.put_readByte_outside _ _ _ _ (by rw [peekSummary_length]; omega)]

theorem peeked_shows_summary {items : List Item} (laid : LaysOut items 0 (s.peekSummary r)) :
    (peeked s o r).mem.Shows (slotBase o.slot + 0x40) 16 items := by
  refine shows_of_same (put_shows (s := s) laid (.whole _) rfl peekSummary_length.symm) fun a _ _ => ?_
  exact State.put_readByte_outside _ _ _ _ (by omega)

theorem peeked_shows_buffer {b : Fin 4} (opened : s.bufferIn .opened = some b) :
    (peeked s o r).mem.Shows (slotBase o.slot + 0x40) 16 (summaryItems r (some b)
      ((s.buffer b).consist.map List.length) (s.buffer b).alarms.length (s.buffer b).unlistedEntries
      (s.buffer b).boardFull) := by
  refine peeked_shows_summary ?_
  unfold State.peekSummary
  rw [opened]
  exact summaryWords_laysOut ..

theorem peeked_shows_countOnly (countOnly : s.bufferIn .opened = none) :
    (peeked s o r).mem.Shows (slotBase o.slot + 0x40) 16
      (summaryItems r none (s.tt.countOnly.bind (·.vehicles)) 0 0 false) := by
  refine peeked_shows_summary ?_
  unfold State.peekSummary
  rw [countOnly]
  exact summaryWords_laysOut ..

theorem peeked_number : (peeked s o r).mem.readWord (slotBase o.slot + 0x40) = r.number := by
  cases opened : s.bufferIn .opened with
  | some b => exact summary_number (peeked_shows_buffer opened)
  | none => exact summary_number (peeked_shows_countOnly opened)

theorem peeked_shows_entry {k : Nat} {e : AxleEntry} (he : s.openAxles[o.arg1.toNat + k]? = some e)
    (hk : k < o.arg2.toNat) :
    (peeked s o r).mem.Shows (slotBase o.slot + 0x80 + 32 * k) 8 (axleItems (o.arg1.toNat + k) e) := by
  have stands := entry_stands (peekAxles_get he hk)
  exact put_shows (axleWords_laysOut (o.arg1.toNat + k) e) stands (by omega) rfl

theorem peeked_shows_zeros {k : Nat} (hk : k < 12)
    (beyond : o.arg2.toNat ≤ k ∨ s.openAxles.length ≤ o.arg1.toNat + k) :
    (peeked s o r).mem.Shows (slotBase o.slot + 0x80 + 32 * k) 8 [] :=
  put_shows (laysOut_zeros 8 fun _ _ => rfl) (zeros_stand (by rw [peekAxles_length]; omega) hk) (by omega) rfl

end

/-- Settles O44: the checks in order, and for an open train the machine with the two areas stored, from which the order
completes. -/
theorem peekCopiesTheOpenTrain : Obligations.PeekCopiesTheOpenTrain := by
  intro now o s u first count axles hr runs
  have same : u.openAxles = axles := openAxles_eq u
  have taken := exec_peekTrain hr runs
  refine ⟨_, taken, fun bad => ?_, fun low high index => ⟨fun shut => ?_, fun r opened => ?_⟩⟩
  · rw [peek_badArgument bad]
    exact u.finishRunning_spec ..
  · rw [peek_noTrain low high index shut]
    exact u.finishRunning_spec ..
  · rw [peek_train low high index opened, same]
    refine ⟨peeked u o r, State.finishRunning_spec .., rfl, peeked_outside high, peeked_number,
      fun b => peeked_shows_buffer, peeked_shows_countOnly, fun k hk => ⟨fun e he => ?_, fun beyond => ?_⟩⟩
    · rw [← same] at he
      exact peeked_shows_entry he
    · rw [← same] at beyond
      exact peeked_shows_zeros hk beyond

end Sys2Proof.Machine.ReportProofs
end
